-- ==== Sys2Proof/Word.lean ====
section
/-! DEFINITION. The word types of the CHIP-8 core (00_scope.md rules R8, R9): everything is unsigned. -/

namespace Sys2Proof

/-- An 8-bit cell: a V register, a timer, a byte of RAM, the constant `kk` (R11, R21, R22, R25, R62). -/
abbrev Byte := BitVec 8

/-- A 16-bit cell: an instruction word, `I`, `PC`, a stack entry (R14, R16, R17, R61). -/
abbrev Word16 := BitVec 16

/-- A 12-bit address of RAM, 0x000 to 0xFFF, and the constant `nnn` (R40, R62). -/
abbrev Addr := BitVec 12

/-- A register number: a 4-bit field, every value of which names a register (R11). -/
abbrev Reg := Fin 16

end Sys2Proof
end

