-- ==== Sys2Proof/Syntax.lean ====
section
/-! DEFINITION. The instructions: one constructor per row of spec/opcode_table.json (30_encoding.md rule R65),
with the operands of the row's format (R61 to R63). -/

namespace Sys2Proof

/-- The 35 instructions of R65, in the order of the table. -/
inductive Instr where
  /-- 00E0 CLS -/
  | cls
  /-- 00EE RET -/
  | ret
  /-- 0nnn SYS nnn -/
  | sys (nnn : Addr)
  /-- 1nnn JP nnn -/
  | jp (nnn : Addr)
  /-- 2nnn CALL nnn -/
  | call (nnn : Addr)
  /-- 3xkk SE Vx,kk -/
  | seVxKk (x : Reg) (kk : Byte)
  /-- 4xkk SNE Vx,kk -/
  | sneVxKk (x : Reg) (kk : Byte)
  /-- 5xy0 SE Vx,Vy -/
  | seVxVy (x y : Reg)
  /-- 6xkk LD Vx,kk -/
  | ldVxKk (x : Reg) (kk : Byte)
  /-- 7xkk ADD Vx,kk -/
  | addVxKk (x : Reg) (kk : Byte)
  /-- 8xy0 LD Vx,Vy -/
  | ldVxVy (x y : Reg)
  /-- 8xy1 OR Vx,Vy -/
  | orVxVy (x y : Reg)
  /-- 8xy2 AND Vx,Vy -/
  | andVxVy (x y : Reg)
  /-- 8xy3 XOR Vx,Vy -/
  | xorVxVy (x y : Reg)
  /-- 8xy4 ADD Vx,Vy -/
  | addVxVy (x y : Reg)
  /-- 8xy5 SUB Vx,Vy -/
  | subVxVy (x y : Reg)
  /-- 8xy6 SHR Vx,Vy: `y` is encoded and ignored (R108) -/
  | shrVxVy (x y : Reg)
  /-- 8xy7 SUBN Vx,Vy -/
  | subnVxVy (x y : Reg)
  /-- 8xyE SHL Vx,Vy: `y` is encoded and ignored (R110) -/
  | shlVxVy (x y : Reg)
  /-- 9xy0 SNE Vx,Vy -/
  | sneVxVy (x y : Reg)
  /-- Annn LD I,nnn -/
  | ldINnn (nnn : Addr)
  /-- Bnnn JP V0,nnn -/
  | jpV0Nnn (nnn : Addr)
  /-- Cxkk RND Vx,kk -/
  | rndVxKk (x : Reg) (kk : Byte)
  /-- Dxyn DRW Vx,Vy,n: a row count 0 to 15 -/
  | drwVxVyN (x y : Reg) (n : Fin 16)
  /-- Ex9E SKP Vx -/
  | skpVx (x : Reg)
  /-- ExA1 SKNP Vx -/
  | sknpVx (x : Reg)
  /-- Fx07 LD Vx,DT -/
  | ldVxDt (x : Reg)
  /-- Fx0A LD Vx,K -/
  | ldVxK (x : Reg)
  /-- Fx15 LD DT,Vx -/
  | ldDtVx (x : Reg)
  /-- Fx18 LD ST,Vx -/
  | ldStVx (x : Reg)
  /-- Fx1E ADD I,Vx -/
  | addIVx (x : Reg)
  /-- Fx29 LD F,Vx -/
  | ldFVx (x : Reg)
  /-- Fx33 LD B,Vx -/
  | ldBVx (x : Reg)
  /-- Fx55 LD [I],Vx: `x` counts registers -/
  | ldMemVx (x : Reg)
  /-- Fx65 LD Vx,[I]: `x` counts registers -/
  | ldVxMem (x : Reg)
  deriving DecidableEq, Repr

/-- What the decoder answers for a 16-bit word (R68): a tagged variant, or the word labelled illegal. -/
inductive Decoded where
  | instr (i : Instr)
  | illegal (op : Word16)
  deriving DecidableEq, Repr

/-- What the decoder answers for a sequence of bytes: an instruction and the bytes after it, or a rejection by name. -/
inductive ByteDecoded where
  /-- the instruction of the first two bytes, and the rest -/
  | instr (i : Instr) (rest : List Byte)
  /-- the first two bytes make a word of no row (R66) -/
  | illegal (op : Word16)
  /-- fewer than the two bytes every instruction has (R61) -/
  | tooShort
  deriving DecidableEq, Repr

end Sys2Proof
end

