-- ==== Sys2Proof/WellFormed.lean ====
section
/-! DEFINITION. Well-formed instructions: those some word decodes to. The only check is that `SYS nnn` is not
one of the two words that mean CLS and RET (30_encoding.md rule R64, the "except" of the table's 0nnn row). -/

namespace Sys2Proof

/-- Whether an instruction has a word of its own. `SYS 0x0E0` and `SYS 0x0EE` have none: those words are CLS and
RET. Every other operand value of every instruction is encodable (R11, R62, R66). -/
def Instr.wf : Instr → Bool
  | .sys nnn => nnn != 0x0E0#12 && nnn != 0x0EE#12
  | .cls | .ret | .jp _ | .call _ => true
  | .seVxKk _ _ | .sneVxKk _ _ | .seVxVy _ _ | .sneVxVy _ _ => true
  | .ldVxKk _ _ | .addVxKk _ _ | .ldVxVy _ _ | .orVxVy _ _ | .andVxVy _ _ | .xorVxVy _ _ => true
  | .addVxVy _ _ | .subVxVy _ _ | .shrVxVy _ _ | .subnVxVy _ _ | .shlVxVy _ _ => true
  | .ldINnn _ | .jpV0Nnn _ | .rndVxKk _ _ | .drwVxVyN _ _ _ => true
  | .skpVx _ | .sknpVx _ | .ldVxDt _ | .ldVxK _ | .ldDtVx _ | .ldStVx _ => true
  | .addIVx _ | .ldFVx _ | .ldBVx _ | .ldMemVx _ | .ldVxMem _ => true

end Sys2Proof
end

