-- ==== Sys2Proof/Decode.lean ====
section
/-! DEFINITION. The decoder (30_encoding.md rules R61 to R68), total on words and on bytes, and the encoder,
written from the formats of R61 and the map of R65. -/

namespace Sys2Proof

/-! ### Fields (R62) -/

/-- The major opcode, `op[15:12]`. -/
def majorOf (op : Word16) : BitVec 4 := op.extractLsb' 12 4
/-- `x = op[11:8]`. -/
def fieldX (op : Word16) : Reg := (op.extractLsb' 8 4).toFin
/-- `y = op[7:4]`. -/
def fieldY (op : Word16) : Reg := (op.extractLsb' 4 4).toFin
/-- `n = op[3:0]` as bits: the minor opcode of the `XY` format. -/
def minorOf (op : Word16) : BitVec 4 := op.extractLsb' 0 4
/-- `n = op[3:0]` as a row count. -/
def fieldN (op : Word16) : Fin 16 := (minorOf op).toFin
/-- `kk = op[7:0]`. -/
def fieldKk (op : Word16) : Byte := op.extractLsb' 0 8
/-- `nnn = op[11:0]`. -/
def fieldNnn (op : Word16) : Addr := op.extractLsb' 0 12

/-! ### The decoder -/

/-- Major opcode 0x0 (R64): the two exact words first, every other word is SYS. -/
def decode0 (op : Word16) : Decoded :=
  if op = 0x00E0#16 then .instr .cls
  else if op = 0x00EE#16 then .instr .ret
  else .instr (.sys (fieldNnn op))

/-- Major opcode 0x8 (R65): select on the minor opcode; 8 to D and F are illegal (R66). -/
def decode8 (op : Word16) : Decoded :=
  let x := fieldX op
  let y := fieldY op
  if minorOf op = 0x0#4 then .instr (.ldVxVy x y)
  else if minorOf op = 0x1#4 then .instr (.orVxVy x y)
  else if minorOf op = 0x2#4 then .instr (.andVxVy x y)
  else if minorOf op = 0x3#4 then .instr (.xorVxVy x y)
  else if minorOf op = 0x4#4 then .instr (.addVxVy x y)
  else if minorOf op = 0x5#4 then .instr (.subVxVy x y)
  else if minorOf op = 0x6#4 then .instr (.shrVxVy x y)
  else if minorOf op = 0x7#4 then .instr (.subnVxVy x y)
  else if minorOf op = 0xE#4 then .instr (.shlVxVy x y)
  else .illegal op

/-- Major opcode 0xE (R65): select on the low byte. -/
def decodeE (op : Word16) : Decoded :=
  if fieldKk op = 0x9E#8 then .instr (.skpVx (fieldX op))
  else if fieldKk op = 0xA1#8 then .instr (.sknpVx (fieldX op))
  else .illegal op

/-- Major opcode 0xF (R65): select on the low byte. -/
def decodeF (op : Word16) : Decoded :=
  let x := fieldX op
  if fieldKk op = 0x07#8 then .instr (.ldVxDt x)
  else if fieldKk op = 0x0A#8 then .instr (.ldVxK x)
  else if fieldKk op = 0x15#8 then .instr (.ldDtVx x)
  else if fieldKk op = 0x18#8 then .instr (.ldStVx x)
  else if fieldKk op = 0x1E#8 then .instr (.addIVx x)
  else if fieldKk op = 0x29#8 then .instr (.ldFVx x)
  else if fieldKk op = 0x33#8 then .instr (.ldBVx x)
  else if fieldKk op = 0x55#8 then .instr (.ldMemVx x)
  else if fieldKk op = 0x65#8 then .instr (.ldVxMem x)
  else .illegal op

/-- The decoder (R68): a pure, total function of the word, in the order of R64. -/
def decode (op : Word16) : Decoded :=
  if majorOf op = 0x0#4 then decode0 op
  else if majorOf op = 0x1#4 then .instr (.jp (fieldNnn op))
  else if majorOf op = 0x2#4 then .instr (.call (fieldNnn op))
  else if majorOf op = 0x3#4 then .instr (.seVxKk (fieldX op) (fieldKk op))
  else if majorOf op = 0x4#4 then .instr (.sneVxKk (fieldX op) (fieldKk op))
  else if majorOf op = 0x5#4 then
    if minorOf op = 0x0#4 then .instr (.seVxVy (fieldX op) (fieldY op)) else .illegal op
  else if majorOf op = 0x6#4 then .instr (.ldVxKk (fieldX op) (fieldKk op))
  else if majorOf op = 0x7#4 then .instr (.addVxKk (fieldX op) (fieldKk op))
  else if majorOf op = 0x8#4 then decode8 op
  else if majorOf op = 0x9#4 then
    if minorOf op = 0x0#4 then .instr (.sneVxVy (fieldX op) (fieldY op)) else .illegal op
  else if majorOf op = 0xA#4 then .instr (.ldINnn (fieldNnn op))
  else if majorOf op = 0xB#4 then .instr (.jpV0Nnn (fieldNnn op))
  else if majorOf op = 0xC#4 then .instr (.rndVxKk (fieldX op) (fieldKk op))
  else if majorOf op = 0xD#4 then .instr (.drwVxVyN (fieldX op) (fieldY op) (fieldN op))
  else if majorOf op = 0xE#4 then decodeE op
  else decodeF op

/-- The 16-bit word of two bytes in fetch order, big-endian: the byte at the lower address is the high byte
(20_memory.md rule R41). -/
def wordOfBytes (hi lo : Byte) : Word16 := hi ++ lo

/-- The decoder on a sequence of bytes. -/
def decodeBytes : List Byte → ByteDecoded
  | hi :: lo :: rest =>
    match decode (wordOfBytes hi lo) with
    | .instr i => .instr i rest
    | .illegal op => .illegal op
  | [] | [_] => .tooShort

/-! ### The encoder (the formats of R61) -/

/-- Format `NNN`. -/
def encNNN (major : BitVec 4) (nnn : Addr) : Word16 := major ++ nnn
/-- Format `XKK`; also format `X`, whose low byte is the minor opcode. -/
def encXKK (major : BitVec 4) (x : Reg) (kk : Byte) : Word16 := major ++ (BitVec.ofFin x : BitVec 4) ++ kk
/-- Formats `XY` and `XYN`: the last field is the minor opcode or `n`. -/
def encXYN (major : BitVec 4) (x y : Reg) (n : BitVec 4) : Word16 :=
  major ++ (BitVec.ofFin x : BitVec 4) ++ (BitVec.ofFin y : BitVec 4) ++ n

/-- The word of an instruction. -/
def encode : Instr → Word16
  | .cls => 0x00E0#16
  | .ret => 0x00EE#16
  | .sys nnn => encNNN 0x0#4 nnn
  | .jp nnn => encNNN 0x1#4 nnn
  | .call nnn => encNNN 0x2#4 nnn
  | .seVxKk x kk => encXKK 0x3#4 x kk
  | .sneVxKk x kk => encXKK 0x4#4 x kk
  | .seVxVy x y => encXYN 0x5#4 x y 0x0#4
  | .ldVxKk x kk => encXKK 0x6#4 x kk
  | .addVxKk x kk => encXKK 0x7#4 x kk
  | .ldVxVy x y => encXYN 0x8#4 x y 0x0#4
  | .orVxVy x y => encXYN 0x8#4 x y 0x1#4
  | .andVxVy x y => encXYN 0x8#4 x y 0x2#4
  | .xorVxVy x y => encXYN 0x8#4 x y 0x3#4
  | .addVxVy x y => encXYN 0x8#4 x y 0x4#4
  | .subVxVy x y => encXYN 0x8#4 x y 0x5#4
  | .shrVxVy x y => encXYN 0x8#4 x y 0x6#4
  | .subnVxVy x y => encXYN 0x8#4 x y 0x7#4
  | .shlVxVy x y => encXYN 0x8#4 x y 0xE#4
  | .sneVxVy x y => encXYN 0x9#4 x y 0x0#4
  | .ldINnn nnn => encNNN 0xA#4 nnn
  | .jpV0Nnn nnn => encNNN 0xB#4 nnn
  | .rndVxKk x kk => encXKK 0xC#4 x kk
  | .drwVxVyN x y n => encXYN 0xD#4 x y (BitVec.ofFin n)
  | .skpVx x => encXKK 0xE#4 x 0x9E#8
  | .sknpVx x => encXKK 0xE#4 x 0xA1#8
  | .ldVxDt x => encXKK 0xF#4 x 0x07#8
  | .ldVxK x => encXKK 0xF#4 x 0x0A#8
  | .ldDtVx x => encXKK 0xF#4 x 0x15#8
  | .ldStVx x => encXKK 0xF#4 x 0x18#8
  | .addIVx x => encXKK 0xF#4 x 0x1E#8
  | .ldFVx x => encXKK 0xF#4 x 0x29#8
  | .ldBVx x => encXKK 0xF#4 x 0x33#8
  | .ldMemVx x => encXKK 0xF#4 x 0x55#8
  | .ldVxMem x => encXKK 0xF#4 x 0x65#8

/-- The bytes of an instruction as RAM holds them, lower address first (R41). -/
def encodeBytes (i : Instr) : List Byte := [(encode i).extractLsb' 8 8, (encode i).extractLsb' 0 8]

/-- The high byte of a table row's word `w`: the byte at the lower address (R41, R61). -/
def tableHi (nbits w : Nat) : Byte := BitVec.ofNat 8 (w % 2 ^ nbits / 256)

/-- The low byte of a table row's word `w`. -/
def tableLo (nbits w : Nat) : Byte := BitVec.ofNat 8 (w % 2 ^ nbits)

/-- The instruction the decoder reads from a row of spec/opcode_table.json whose bits are `w`: the table numbers a
row's bits as the 16-bit word (bit 15 is the most significant bit of the first fetched byte, R61). -/
def decodeTableWord (nbits w : Nat) : Option Instr :=
  match decodeBytes [tableHi nbits w, tableLo nbits w] with
  | .instr i _ => some i
  | .illegal _ => none
  | .tooShort => none

end Sys2Proof
end

