-- ==== Sys2Proof/Machine/Flags.lean ====
section
/-! DEFINITION. The flag computations (10_state.md rules R12, R13): the only flag is `VF`, and each function here
gives the value one VF-writer commits to it, from the operands as they stand at the start of the step. DRW's
collision flag is computed by the rasterizer of Machine/Ops.lean. -/

namespace Sys2Proof.Machine

/-- A flag as the byte that goes to `VF`: 0 or 1, never another value (R12). -/
def flagByte (f : Bool) : Byte := if f then 1#8 else 0#8

/-- 8xy4: carry out of bit 7 (R106). -/
def carryFlag (a b : Byte) : Bool := decide (a.toNat + b.toNat > 0xFF)

/-- 8xy5, and 8xy7 with the operands exchanged: NOT borrow of `a - b`; equal operands give 1 (R107, R109, R112). -/
def notBorrowFlag (a b : Byte) : Bool := decide (a.toNat ≥ b.toNat)

/-- 8xy6: the bit shifted out on the right, old bit 0 (R108). -/
def shiftRightFlag (a : Byte) : Bool := a.getLsbD 0

/-- 8xyE: the bit shifted out on the left, old bit 7 (R110). -/
def shiftLeftFlag (a : Byte) : Bool := a.getLsbD 7

/-- Fx1E: the sum passes 0xFFF (R121). -/
def indexFlag (i : Word16) (b : Byte) : Bool := decide (i.toNat + b.toNat > 0xFFF)

end Sys2Proof.Machine
end

