-- ==== Sys2Proof/Config.lean ====
section
/-! DEFINITION. What is fixed for this hardware (00_scope.md rule R4) and the one free value of the model, the
byte of the RNG port (41_load_alu.md rule R111). The font table is in Machine/Font.lean. -/

namespace Sys2Proof

/-- `RAM_SIZE`: 4096 bytes, addresses 0x000 to 0xFFF (R4, R25). -/
def Config.ramSize : Nat := 0x1000

/-- `FONT_BASE` (R4, R46). -/
def Config.fontBase : Nat := 0x050

/-- `ROM_BASE` (R4, R192). -/
def Config.romBase : Nat := 0x200

/-- `ROM_MAX`: 3584 bytes (R4, R192). -/
def Config.romMax : Nat := 0xE00

/-- The free value of the model: the byte the RNG source supplies at the `n`-th draw for which the host has fixed
no byte (R111, R181; decision D12: "any value 0 to 255 at each Cxkk, under no law"). It has no body: no proof
can learn a value of it. Log entry 3. -/
opaque Config.rngByte : Nat → Byte

end Sys2Proof
end

