-- ==== Sys2Proof/Machine/Font.lean ====
section
/-! DEFINITION. The font table (20_memory.md rule R46) and the reset contents of RAM (10_state.md rule R25). -/

namespace Sys2Proof.Machine

/-- `FONT[0..79]`: the glyphs 0 to F, five rows each, top row first (R46; U2 of 93_implementation_defined.md). The
bytes are general knowledge, PRESUMED (log entry 4). -/
def font : List Byte :=
  [0xF0, 0x90, 0x90, 0x90, 0xF0, 0x20, 0x60, 0x20, 0x20, 0x70] ++
  [0xF0, 0x10, 0xF0, 0x80, 0xF0, 0xF0, 0x10, 0xF0, 0x10, 0xF0] ++
  [0x90, 0x90, 0xF0, 0x10, 0x10, 0xF0, 0x80, 0xF0, 0x10, 0xF0] ++
  [0xF0, 0x80, 0xF0, 0x90, 0xF0, 0xF0, 0x10, 0x20, 0x40, 0x40] ++
  [0xF0, 0x90, 0xF0, 0x90, 0xF0, 0xF0, 0x90, 0xF0, 0x10, 0xF0] ++
  [0xF0, 0x90, 0xF0, 0x90, 0x90, 0xE0, 0x90, 0xE0, 0x90, 0xE0] ++
  [0xF0, 0x80, 0x80, 0x80, 0xF0, 0xE0, 0x90, 0x90, 0x90, 0xE0] ++
  [0xF0, 0x80, 0xF0, 0x80, 0xF0, 0xF0, 0x80, 0xF0, 0x80, 0x80]

/-- What RAM holds at address `a` after reset: the font at 0x050 to 0x09F, else 0 (R25, R40). -/
def resetByte (a : Nat) : Byte :=
  if Config.fontBase ≤ a then font.getD (a - Config.fontBase) 0#8 else 0#8

end Sys2Proof.Machine
end

