-- ==== Sys2Proof/Machine/State.lean ====
section
/-! DEFINITION. The architectural state (10_state.md rule R10), the results of an operation, the host operations
(00_scope.md rule R6), and the state after reset (10_state.md rule R26). Plain data only. -/

namespace Sys2Proof.Machine

/-- The six fault kinds of R160; `illegalOpcode` records the word. -/
inductive FaultKind where
  /-- `load` of more than 3584 bytes -/
  | romTooLarge
  /-- the host could not read the ROM file: reported by the host, outside the core (R185) -/
  | romReadFailed
  /-- CALL with `SP = 16` -/
  | stackOverflow
  /-- RET with `SP = 0` -/
  | stackUnderflow
  /-- fetch would read past 0xFFF -/
  | badPC
  /-- the decoder labelled the word illegal -/
  | illegalOpcode (op : Word16)
  deriving DecidableEq, Repr

/-- What `step_one` returns (R7); `load` returns `ok` or a fault (R192). -/
inductive StepResult where
  | ok
  | waitingForKey
  | fault (k : FaultKind)
  deriving DecidableEq, Repr

/-- The operations the host may invoke (R6), each atomic. `romReadFailed` is the host's own report of R185: the
core's `load` is not invoked. The byte `rnd` of a step is the next byte of `State.rngFeed` (log entry 3). -/
inductive HostOp where
  | reset
  | load (rom : List Byte)
  | stepOne
  | tickTimers
  | setKey (k : Fin 16) (down : Bool)
  | presentAck
  | romReadFailed
  deriving DecidableEq, Repr

/-- RAM as the cells that differ from its reset contents: addresses strictly rising, none equal to what an
unlisted address reads as (`Memory.wf` in Machine/Memory.lean). -/
abbrev Memory := List Host.Cell

/-- The framebuffer: 32 rows of 64 pixels, row `Y` from the top, bit `X` of a row the pixel of column `X`, so
that `FB[Y*64 + X]` is bit `X` of row `Y` (R19). -/
abbrev FrameBuffer := Vector (BitVec 64) 32

/-- The state. The first twelve fields are the twelve items of R10; the last four are the model's own (log
entries 1, 2 and 3): what the last operation returned, what the host will do next, and the RNG port. -/
structure State where
  /-- `RAM[0..4095]` (R25) -/
  ram : Memory
  /-- `V[0..15]` (R11) -/
  v : Vector Byte 16
  /-- `I`: a 12-bit value in a 16-bit cell (R16) -/
  i : Word16
  /-- `PC`: a 16-bit cell, never reduced (R14) -/
  pc : Word16
  /-- `STACK[0..15]`: 16-bit cells (R17) -/
  stack : Vector Word16 16
  /-- `SP`: 0 to 16, the number of return addresses held (R18) -/
  sp : Fin 17
  /-- `FB[0..2047]` (R19) -/
  fb : FrameBuffer
  /-- `K[0..15]` (R20) -/
  keys : Vector Bool 16
  /-- `DT` (R21) -/
  dt : Byte
  /-- `ST` (R22) -/
  st : Byte
  /-- `DRAW` (R23) -/
  draw : Bool
  /-- `FAULT` (R24) -/
  fault : Option FaultKind
  /-- MODEL's own: what the last `step_one` or `load` returned (R7); `none` right after a reset -/
  result : Option StepResult
  /-- MODEL's own: the operations the host has issued and the core has not run yet, in order (R6) -/
  pending : List HostOp
  /-- MODEL's own: the bytes the host has fixed for the next draws from the RNG port (R181) -/
  rngFeed : List Byte
  /-- MODEL's own: how many draws had no byte fixed; the argument of the free value `Config.rngByte` -/
  rngDraws : Nat
  deriving DecidableEq, Repr

/-- Why `step` stops with no next state. -/
inductive Fault where
  /-- Raised by `step` alone, never by an instruction: `FAULT` is latched and the host has no operation pending, so
  that nothing can ever happen to the machine again (R165, R206 (a)). Safe: the hardware changes no state either. -/
  | halted (k : FaultKind)
  deriving DecidableEq, Repr

/-- Why an instruction has no meaning here. -/
inductive Refusal where
  /-- Would be raised by an arm of `exec` whose instruction has no meaning yet; no arm does. Safe. -/
  | notModelled (mnemonic : String)
  deriving DecidableEq, Repr

/-- What a meaning and a step answer. -/
abbrev Answer := Host.Outcome State Fault Refusal

/-- The state after `reset()` (R26): every value is the spec's; memory with nothing listed reads as the reset
contents of RAM, the font included. The host has nothing pending, and no RNG byte is fixed. -/
def State.reset : State where
  ram := []
  v := Vector.replicate 16 0#8
  i := 0#16
  pc := 0x200#16
  stack := Vector.replicate 16 0#16
  sp := 0
  fb := Vector.replicate 32 0#64
  keys := Vector.replicate 16 false
  dt := 0#8
  st := 0#8
  draw := true
  fault := none
  result := none
  pending := []
  rngFeed := []
  rngDraws := 0

end Sys2Proof.Machine
end

