-- ==== Sys2Proof/Machine/Memory.lean ====
section
/-! DEFINITION. RAM as sparse data in one canonical form: reading and writing a byte, writing bytes in a row. -/

namespace Sys2Proof.Machine

/-- The byte at address `a`; an unlisted address reads as after reset (R25). -/
def Memory.read : Memory → Nat → Byte
  | [], a => resetByte a
  | (k, c) :: m, a => if k = a then c else Memory.read m a

/-- Put the cell `(a, b)` before `m`, unless `b` is what an unlisted `a` reads as. -/
def Memory.put (a : Nat) (b : Byte) (m : Memory) : Memory :=
  if b = resetByte a then m else (a, b) :: m

/-- Write byte `b` at address `a`, keeping the addresses rising and no cell redundant. -/
def Memory.write : Memory → Nat → Byte → Memory
  | [], a, b => Memory.put a b []
  | (k, c) :: m, a, b =>
    if a < k then Memory.put a b ((k, c) :: m)
    else if a = k then Memory.put a b m
    else (k, c) :: Memory.write m a b

/-- Write the bytes of a list in order, the `k`-th byte (counting on from `k`) at address `addr k`. -/
def Memory.writeFrom (addr : Nat → Nat) : Nat → List Byte → Memory → Memory
  | _, [], m => m
  | k, b :: bs, m => Memory.writeFrom addr (k + 1) bs (Memory.write m (addr k) b)

/-- Canonical from address `lo` on: addresses at least `lo`, strictly rising, inside RAM, no cell redundant. -/
def Memory.wfFrom : Nat → Memory → Bool
  | _, [] => true
  | lo, (a, b) :: m =>
    decide (lo ≤ a) && decide (a < Config.ramSize) && decide (b ≠ resetByte a) && Memory.wfFrom (a + 1) m

/-- The canonical form of memory: equal memories are equal lists. -/
def Memory.wf (m : Memory) : Bool := Memory.wfFrom 0 m

end Sys2Proof.Machine
end

