-- ==== Sys2Proof/Machine/Operands.lean ====
section
/-! DEFINITION. Operand forms and results: what the instructions compute from registers and constants before
anything is written. All arithmetic is unsigned (00_scope.md rule R9). -/

namespace Sys2Proof.Machine

/-- A register read: `V[x]` (R11). -/
def State.reg (s : State) (x : Reg) : Byte := s.v[x]

/-- The effective address `EA(k) = (I + k) & 0xFFF` (20_memory.md rule R44; decision D3: it wraps). -/
def State.ea (s : State) (k : Nat) : Addr := BitVec.ofNat 12 (s.i.toNat + k)

/-! ### ALU results (41_load_alu.md) -/

/-- The four ALU operations of 8xy0 to 8xy3. -/
inductive LogicOp where
  | copy
  | or
  | and
  | xor
  deriving DecidableEq, Repr

/-- The one table of 8xy0 to 8xy3 (R102 to R105). The assignment is general knowledge, PRESUMED (U1 of
93_implementation_defined.md; log entry 5). -/
def logicResult : LogicOp → Byte → Byte → Byte
  | .copy, _, b => b
  | .or, a, b => a ||| b
  | .and, a, b => a &&& b
  | .xor, a, b => a ^^^ b

/-- `(a + b) mod 256` (R101, R106). -/
def addResult (a b : Byte) : Byte := BitVec.ofNat 8 (a.toNat + b.toNat)

/-- `(a - b) mod 256 = (a + 256 - b) mod 256` (R107, R109). -/
def subResult (a b : Byte) : Byte := BitVec.ofNat 8 (a.toNat + 256 - b.toNat)

/-- `a >> 1`: logical, bit 7 of the result is 0 (R108). -/
def shiftRightResult (a : Byte) : Byte := a >>> 1

/-- `(a << 1) & 0xFF`: bit 0 of the result is 0 (R110). -/
def shiftLeftResult (a : Byte) : Byte := a <<< 1

/-! ### Index results (42_index_memory.md) -/

/-- `(I + v) & 0x0FFF` in the 16-bit cell (R121). -/
def indexSum (i : Word16) (b : Byte) : Word16 := BitVec.ofNat 16 ((i.toNat + b.toNat) % 0x1000)

/-- `0x050 + (v & 0x0F) * 5`: the address of a glyph's top row (R122). -/
def glyphAddress (b : Byte) : Word16 := BitVec.ofNat 16 (Config.fontBase + (b.toNat % 16) * 5)

/-- Hundreds, tens, ones, a whole byte each (R124). -/
def bcdDigits (b : Byte) : List Byte :=
  [BitVec.ofNat 8 (b.toNat / 100), BitVec.ofNat 8 (b.toNat / 10 % 10), BitVec.ofNat 8 (b.toNat % 10)]

/-! ### Jump targets (40_control_transfer.md) -/

/-- `nnn` as a value of the 16-bit cells `PC` and `I` (R83, R120). -/
def wordOfAddr (nnn : Addr) : Word16 := nnn.setWidth 16

/-- `nnn + V[0]`, a 13-bit sum, not reduced (R88). -/
def offsetTarget (nnn : Addr) (b : Byte) : Word16 := BitVec.ofNat 16 (nnn.toNat + b.toNat)

/-- The address of the next instruction, or of the one after it when a skip is taken (R15). -/
def skipTarget (pc : Word16) (taken : Bool) : Word16 := if taken then pc + 4#16 else pc + 2#16

/-! ### The keypad (44_keypad_timers.md) -/

/-- The key number a register names: its low nibble (R146; decision D6). -/
def keyNumber (b : Byte) : Fin 16 := Fin.ofNat 16 b.toNat

/-- `key_down(k)` is `K[k]` (R177). -/
def State.keyDown (s : State) (k : Fin 16) : Bool := s.keys[k]

/-- `any_pressed()`: the least `k` with `K[k]` true, or nothing (R148, R177). -/
def State.lowestKey (s : State) : Option (Fin 16) := (List.finRange 16).find? (fun k => s.keyDown k)

/-- A key number as a register's value (R148). -/
def keyByte (k : Fin 16) : Byte := BitVec.ofNat 8 k.val

/-! ### The display (43_display.md) -/

/-- `x0 = V[x] mod 64` (R137). -/
def startColumn (b : Byte) : Nat := b.toNat % 64

/-- `y0 = V[y] mod 32` (R137). -/
def startRow (b : Byte) : Nat := b.toNat % 32

/-- `FB(X, Y)`; false outside the 64 by 32 grid (R19). -/
def pixelOf (fb : FrameBuffer) (X Y : Nat) : Bool := if h : Y < 32 then fb[Y].getLsbD X else false

/-- `FB(X, Y)` of a state. -/
def State.pixel (s : State) (X Y : Nat) : Bool := pixelOf s.fb X Y

/-- `FB[j]`, row-major: `FB[Y*64 + X]` is `FB(X, Y)` (R19, R178). -/
def State.fbCell (s : State) (j : Fin 2048) : Bool := s.pixel (j.val % 64) (j.val / 64)

/-- The beeper output `ST > 0` (60_exceptions.md rule R180). -/
def State.beep (s : State) : Bool := decide (s.st.toNat > 0)

/-- The bit `px` of column `c` of a sprite byte: column 0 is the most significant bit (R137). -/
def spriteBit (b : Byte) (c : Nat) : Bool := decide (c ≤ 7) && b.getLsbD (7 - c)

end Sys2Proof.Machine
end

