-- ==== Sys2Proof/Machine/Ops.lean ====
section
/-! DEFINITION. The shared operations: register and memory access, the end of an instruction, the stack, raising a
fault and the way out of it, the RNG port, the sprite rasterizer. -/

namespace Sys2Proof.Machine

/-! ### Registers -/

/-- `V[x] <- b` (R11). -/
def State.setReg (s : State) (x : Reg) (b : Byte) : State := { s with v := s.v.set x b }

/-- `VF <- f` as a flag (R12). -/
def State.setFlag (s : State) (f : Bool) : State := s.setReg 15 (flagByte f)

/-- The write order of every VF-writer with a numeric result: the result first, the flag second, so that with
`x = F` only the flag survives (R13, R113). -/
def State.setRegFlag (s : State) (x : Reg) (r : Byte) (f : Bool) : State := (s.setReg x r).setFlag f

/-- `I <- w` (R16). -/
def State.setI (s : State) (w : Word16) : State := { s with i := w }

/-- `DT <- b` (R21). -/
def State.setDt (s : State) (b : Byte) : State := { s with dt := b }

/-- `ST <- b` (R22). -/
def State.setSt (s : State) (b : Byte) : State := { s with st := b }

/-- A new framebuffer, and `DRAW <- true`: both draw instructions set it unconditionally (R23, R135). -/
def State.setFb (s : State) (fb : FrameBuffer) : State := { s with fb := fb, draw := true }

/-! ### Memory -/

/-- `MemRead(a, 1)` (R8, R45). -/
def State.memRead (s : State) (a : Addr) : Byte := s.ram.read a.toNat

/-- Store bytes at `EA(0)`, `EA(1)`, … in ascending order (R45); `I` is not changed (R123). -/
def State.storeBytes (s : State) (bs : List Byte) : State :=
  { s with ram := Memory.writeFrom (fun k => (s.ea k).toNat) 0 bs s.ram }

/-- The `n` bytes at `EA(0)`, …, `EA(n-1)` (R45). -/
def State.loadBytes (s : State) (n : Nat) : List Byte := (List.range n).map (fun k => s.memRead (s.ea k))

/-- `V[0]`, …, `V[x]` (R125). -/
def State.regsUpTo (s : State) (x : Reg) : List Byte := s.v.toList.take (x.val + 1)

/-- `V[k] <- MemRead(EA(k), 1)` for `k = 0..x`; the other registers keep their values (R126). -/
def State.loadRegs (s : State) (x : Reg) : State :=
  { s with v := Vector.ofFn (fun k : Fin 16 => if k ≤ x then s.memRead (s.ea k.val) else s.reg k) }

/-! ### The end of an instruction -/

/-- The state at the end of an instruction: `PC <- target`, and `Ok` returned (R15, R60 line 7). -/
def State.ended (s : State) (target : Word16) : State := { s with pc := target, result := some .ok }

/-- End the instruction at `target`. -/
def State.finish (s : State) (target : Word16) : Answer := .next (s.ended target)

/-- `PC <- PC + 2` and `Ok`: the default advance (R15). -/
def State.finishNext (s : State) : Answer := s.finish (s.pc + 2#16)

/-- An operation returned `r` and wrote nothing. -/
def State.answering (s : State) (r : StepResult) : State := { s with result := some r }

/-- `return WaitingForKey`: nothing is written (R8, R148). -/
def State.waitForKey (s : State) : Answer := .next (s.answering .waitingForKey)

/-! ### Faults -/

/-- The state after a fault: `FAULT` is latched, `Fault(kind)` returned, and no other state is written (R164). -/
def State.latched (s : State) (k : FaultKind) : State := { s with fault := some k, result := some (.fault k) }

/-- TAKING A FAULT: `raise kind(info)` (R8, R164). `PC` stays at the faulting instruction. There is no handler,
vector or saved register. -/
def State.raise (s : State) (k : FaultKind) : Answer := .next (s.latched k)

/-- The only ways out of the halted state are `reset()` and `load` (R165): this is `reset()` (R190). The RNG source
and the host's pending operations are outside the core and are not reset (R181). -/
def State.doReset (s : State) : State :=
  { State.reset with pending := s.pending, rngFeed := s.rngFeed, rngDraws := s.rngDraws }

/-- The numeric code of R160 (decision D9), 0 for none. -/
def faultCode : Option FaultKind → Nat
  | none => 0
  | some .romTooLarge => 1
  | some .romReadFailed => 2
  | some .stackOverflow => 3
  | some .stackUnderflow => 4
  | some .badPC => 5
  | some (.illegalOpcode _) => 6

/-! ### The return-address stack (10_state.md rules R17, R18) -/

/-- `STACK[SP] <- a; SP <- SP + 1`, or nothing when `SP = 16`. -/
def State.push (s : State) (a : Word16) : Option State :=
  if h : s.sp.val < 16 then
    some { s with stack := s.stack.set s.sp.val a, sp := ⟨s.sp.val + 1, by omega⟩ }
  else none

/-- `SP <- SP - 1` and the entry at the new `SP`, or nothing when `SP = 0`. The cell is not cleared. -/
def State.pop (s : State) : Option (Word16 × State) :=
  if h : 0 < s.sp.val then
    some (s.stack[s.sp.val - 1], { s with sp := ⟨s.sp.val - 1, by omega⟩ })
  else none

/-! ### The RNG port (60_exceptions.md rule R181) -/

/-- The byte the port supplies to the next draw: the first byte the host has fixed, else a free value (D12). -/
def State.rnd (s : State) : Byte :=
  match s.rngFeed with
  | b :: _ => b
  | [] => Config.rngByte s.rngDraws

/-- The port after one draw. -/
def State.drawRnd (s : State) : State :=
  match s.rngFeed with
  | _ :: bs => { s with rngFeed := bs }
  | [] => { s with rngDraws := s.rngDraws + 1 }

/-! ### The sprite rasterizer (43_display.md rule R137) -/

/-- What the rasterizer carries from pixel to pixel: the framebuffer and the collision flag `f`. -/
structure Raster where
  fb : FrameBuffer
  hit : Bool
  deriving DecidableEq, Repr

/-- The row mask with the one bit `X` equal to `px`. -/
def pixelMask (X : Nat) (px : Bool) : BitVec 64 := if px then 1#64 <<< X else 0#64

/-- Draw the sprite pixel `px` at `(X, Y)`: clipped outside the display, else collision test and XOR. -/
def Raster.plot (t : Raster) (X Y : Nat) (px : Bool) : Raster :=
  if h : X ≤ 63 ∧ Y ≤ 31 then
    { fb := t.fb.set Y (t.fb[Y] ^^^ pixelMask X px), hit := t.hit || (px && t.fb[Y].getLsbD X) }
  else t

/-- Draw the columns of a list, in order, of one sprite row. -/
def Raster.plotColumns (x0 Y : Nat) (b : Byte) : List Nat → Raster → Raster
  | [], t => t
  | c :: cs, t => Raster.plotColumns x0 Y b cs (t.plot (x0 + c) Y (spriteBit b c))

/-- Draw the sprite rows of a list of bytes, from row `Y` downward. -/
def Raster.plotRows (x0 : Nat) : Nat → List Byte → Raster → Raster
  | _, [], t => t
  | Y, b :: bs, t => Raster.plotRows x0 (Y + 1) bs (Raster.plotColumns x0 Y b [0, 1, 2, 3, 4, 5, 6, 7] t)

/-- The sprite of `n` rows at `I`, drawn at column `x0` and row `y0`. -/
def State.rasterize (s : State) (x0 y0 n : Nat) : Raster :=
  Raster.plotRows x0 y0 (s.loadBytes n) { fb := s.fb, hit := false }

end Sys2Proof.Machine
end

