-- ==== Sys2Proof/Machine/Alu.lean ====
section
/-! DEFINITION. Register loads, ALU and random (41_load_alu.md). -/

namespace Sys2Proof.Machine

/-- R100 -/
def execLdVxKk (x : Reg) (kk : Byte) (s : State) : Answer := (s.setReg x kk).finishNext

/-- R101: the carry is dropped, VF is not written as a flag. -/
def execAddVxKk (x : Reg) (kk : Byte) (s : State) : Answer := (s.setReg x (addResult (s.reg x) kk)).finishNext

/-- 8xy0 to 8xy3: `V[x] <- op(V[x], V[y])`, no flag. -/
def State.logic (s : State) (op : LogicOp) (x y : Reg) : Answer :=
  (s.setReg x (logicResult op (s.reg x) (s.reg y))).finishNext

/-- R102 -/
def execLdVxVy (x y : Reg) (s : State) : Answer := s.logic .copy x y

/-- R103 -/
def execOrVxVy (x y : Reg) (s : State) : Answer := s.logic .or x y

/-- R104 -/
def execAndVxVy (x y : Reg) (s : State) : Answer := s.logic .and x y

/-- R105 -/
def execXorVxVy (x y : Reg) (s : State) : Answer := s.logic .xor x y

/-- R106 -/
def execAddVxVy (x y : Reg) (s : State) : Answer :=
  (s.setRegFlag x (addResult (s.reg x) (s.reg y)) (carryFlag (s.reg x) (s.reg y))).finishNext

/-- R107 -/
def execSubVxVy (x y : Reg) (s : State) : Answer :=
  (s.setRegFlag x (subResult (s.reg x) (s.reg y)) (notBorrowFlag (s.reg x) (s.reg y))).finishNext

/-- R108: `y` is ignored. -/
def execShrVxVy (x _y : Reg) (s : State) : Answer :=
  (s.setRegFlag x (shiftRightResult (s.reg x)) (shiftRightFlag (s.reg x))).finishNext

/-- R109 -/
def execSubnVxVy (x y : Reg) (s : State) : Answer :=
  (s.setRegFlag x (subResult (s.reg y) (s.reg x)) (notBorrowFlag (s.reg y) (s.reg x))).finishNext

/-- R110: `y` is ignored. -/
def execShlVxVy (x _y : Reg) (s : State) : Answer :=
  (s.setRegFlag x (shiftLeftResult (s.reg x)) (shiftLeftFlag (s.reg x))).finishNext

/-- R111: one byte is drawn from the RNG port, and masked. -/
def execRndVxKk (x : Reg) (kk : Byte) (s : State) : Answer := (s.drawRnd.setReg x (s.rnd &&& kk)).finishNext

end Sys2Proof.Machine
end

