-- ==== Sys2Proof/Machine/Control.lean ====
section
/-! DEFINITION. Control transfer (40_control_transfer.md): SYS, RET, JP, CALL, the register skips, JP V0. -/

namespace Sys2Proof.Machine

/-- R80: ignored; `PC <- PC + 2`. -/
def execSys (_nnn : Addr) (s : State) : Answer := s.finishNext

/-- R81: `StackOverflow` when `SP == 16`, else push `PC + 2` and jump. -/
def execCall (nnn : Addr) (s : State) : Answer :=
  match s.push (s.pc + 2#16) with
  | none => s.raise .stackOverflow
  | some t => t.finish (wordOfAddr nnn)

/-- R82: `StackUnderflow` when `SP == 0`, else pop into `PC`; 2 is not added. -/
def execRet (s : State) : Answer :=
  match s.pop with
  | none => s.raise .stackUnderflow
  | some (a, t) => t.finish a

/-- R83 -/
def execJp (nnn : Addr) (s : State) : Answer := s.finish (wordOfAddr nnn)

/-- R84 -/
def execSeVxKk (x : Reg) (kk : Byte) (s : State) : Answer := s.finish (skipTarget s.pc (s.reg x == kk))

/-- R85 -/
def execSneVxKk (x : Reg) (kk : Byte) (s : State) : Answer := s.finish (skipTarget s.pc (s.reg x != kk))

/-- R86 -/
def execSeVxVy (x y : Reg) (s : State) : Answer := s.finish (skipTarget s.pc (s.reg x == s.reg y))

/-- R87 -/
def execSneVxVy (x y : Reg) (s : State) : Answer := s.finish (skipTarget s.pc (s.reg x != s.reg y))

/-- R88: `PC <- nnn + V[0]`, not reduced, and 2 is not added. -/
def execJpV0Nnn (nnn : Addr) (s : State) : Answer := s.finish (offsetTarget nnn (s.reg 0))

end Sys2Proof.Machine
end

