-- ==== Sys2Proof/Machine/Display.lean ====
section
/-! DEFINITION. The display instructions (43_display.md): CLS and DRW. -/

namespace Sys2Proof.Machine

/-- R136 -/
def execCls (s : State) : Answer := (s.setFb (Vector.replicate 32 0#64)).finishNext

/-- R137: the coordinates are read before VF is written. -/
def execDrwVxVyN (x y : Reg) (n : Fin 16) (s : State) : Answer :=
  let t := s.rasterize (startColumn (s.reg x)) (startRow (s.reg y)) n.val
  ((s.setFb t.fb).setFlag t.hit).finishNext

end Sys2Proof.Machine
end

