-- ==== Sys2Proof/Machine/Index.lean ====
section
/-! DEFINITION. The index register and the memory instructions (42_index_memory.md). -/

namespace Sys2Proof.Machine

/-- R120 -/
def execLdINnn (nnn : Addr) (s : State) : Answer := (s.setI (wordOfAddr nnn)).finishNext

/-- R121: `I` first, then VF, which is always written. -/
def execAddIVx (x : Reg) (s : State) : Answer :=
  ((s.setI (indexSum s.i (s.reg x))).setFlag (indexFlag s.i (s.reg x))).finishNext

/-- R122 -/
def execLdFVx (x : Reg) (s : State) : Answer := (s.setI (glyphAddress (s.reg x))).finishNext

/-- R124 -/
def execLdBVx (x : Reg) (s : State) : Answer := (s.storeBytes (bcdDigits (s.reg x))).finishNext

/-- R125 -/
def execLdMemVx (x : Reg) (s : State) : Answer := (s.storeBytes (s.regsUpTo x)).finishNext

/-- R126 -/
def execLdVxMem (x : Reg) (s : State) : Answer := (s.loadRegs x).finishNext

end Sys2Proof.Machine
end

