-- ==== Sys2Proof/Machine/Keypad.lean ====
section
/-! DEFINITION. The keypad and timer instructions (44_keypad_timers.md). -/

namespace Sys2Proof.Machine

/-- R146 -/
def execSkpVx (x : Reg) (s : State) : Answer := s.finish (skipTarget s.pc (s.keyDown (keyNumber (s.reg x))))

/-- R147 -/
def execSknpVx (x : Reg) (s : State) : Answer := s.finish (skipTarget s.pc (!s.keyDown (keyNumber (s.reg x))))

/-- R148: the lowest key that is down, or `WaitingForKey` with nothing written. -/
def execLdVxK (x : Reg) (s : State) : Answer :=
  match s.lowestKey with
  | none => s.waitForKey
  | some k => (s.setReg x (keyByte k)).finishNext

/-- R149 -/
def execLdVxDt (x : Reg) (s : State) : Answer := (s.setReg x s.dt).finishNext

/-- R150 -/
def execLdDtVx (x : Reg) (s : State) : Answer := (s.setDt (s.reg x)).finishNext

/-- R151 -/
def execLdStVx (x : Reg) (s : State) : Answer := (s.setSt (s.reg x)).finishNext

end Sys2Proof.Machine
end

