-- ==== Sys2Proof/Machine/HostOps.lean ====
section
/-! DEFINITION. The host operations other than a step (00_scope.md rule R6; 60_exceptions.md rules R172, R177, R179;
70_reset_and_hazards.md rule R192). `reset()` is `State.doReset` of Machine/Ops.lean. -/

namespace Sys2Proof.Machine

/-- A timer after one tick: decremented, saturating at 0 (R172). -/
def tickDown (b : Byte) : Byte := if b.toNat > 0 then b - 1#8 else 0#8

/-- `tick_timers()` (R172): both timers, nothing else; halted or not (R165, R174). -/
def State.tickTimers (s : State) : State := { s with dt := tickDown s.dt, st := tickDown s.st }

/-- `set_key(k, down)` (R177). -/
def State.setKey (s : State) (k : Fin 16) (down : Bool) : State := { s with keys := s.keys.set k down }

/-- `present_ack()` (R179). -/
def State.presentAck (s : State) : State := { s with draw := false }

/-- `load(rom)` (R192): a reset, then the bytes of the ROM from 0x200, or `RomTooLarge` and nothing copied (R193). -/
def State.load (s : State) (rom : List Byte) : State :=
  if rom.length > Config.romMax then
    s.doReset.latched .romTooLarge
  else
    { s.doReset with
      ram := Memory.writeFrom (fun k => Config.romBase + k) 0 rom s.doReset.ram
      draw := true
      result := some .ok }

/-- The host's report that it could not read the ROM: the core's state is untouched (R185). -/
def State.reportReadFailure (s : State) : State := s.answering (.fault .romReadFailed)

end Sys2Proof.Machine
end

