-- ==== Sys2Proof/Machine/StepOne.lean ====
section
/-! DEFINITION. One invocation of `step_one` (30_encoding.md rule R60): fetch, decode, execute; and the effect of any
host operation. -/

namespace Sys2Proof.Machine

/-- `FetchWord(PC)`: two bytes, big-endian, from RAM as it is at the start of the step (R41, R51). It is asked for
only when `PC <= 0xFFE`, where neither address is reduced. -/
def State.fetchWord (s : State) : Word16 :=
  wordOfBytes (s.memRead (BitVec.ofNat 12 s.pc.toNat)) (s.memRead (BitVec.ofNat 12 (s.pc.toNat + 1)))

/-- `step_one` (R60). While `FAULT` is latched it writes nothing and returns the latched fault (R165). -/
def stepOne (s : State) : Answer :=
  match s.fault with
  | some k => .next (s.answering (.fault k))
  | none =>
    if s.pc.toNat > 0xFFE then s.raise .badPC
    else
      match decode s.fetchWord with
      | .illegal op => s.raise (.illegalOpcode op)
      | .instr i => exec i s

/-- The effect of one host operation (R6). -/
def performOp (op : HostOp) (s : State) : Answer :=
  match op with
  | .reset => .next s.doReset
  | .load rom => .next (s.load rom)
  | .stepOne => stepOne s
  | .tickTimers => .next s.tickTimers
  | .setKey k down => .next (s.setKey k down)
  | .presentAck => .next s.presentAck
  | .romReadFailed => .next s.reportReadFailure

/-- The three conditions of the machine as the host sees it (R168). -/
inductive Condition where
  | running
  | waiting
  | halted
  deriving DecidableEq, Repr

/-- Whether the next step would wait: the instruction at `PC` is Fx0A and no key is down (R168). -/
def State.atKeyWait (s : State) : Bool :=
  if s.pc.toNat > 0xFFE then false
  else
    match decode s.fetchWord with
    | .instr (.ldVxK _) => s.lowestKey.isNone
    | .instr _ => false
    | .illegal _ => false

/-- Running and waiting differ in no stored state (R168). -/
def State.condition (s : State) : Condition :=
  if s.fault.isSome then .halted else if s.atKeyWait then .waiting else .running

end Sys2Proof.Machine
end

