-- ==== Sys2Proof/Machine/Step.lean ====
section
/-! DEFINITION. The step of the machine: the next operation of the host. -/

namespace Sys2Proof.Machine

/-- One step runs one host operation (00_scope.md rule R6): the first pending one; with none pending the host invokes
`step_one`, or, if the machine is halted, the run has ended (70_reset_and_hazards.md rule R206 (a); log entry 1). -/
def step (s : State) : Host.Outcome State Fault Refusal :=
  match s.pending with
  | op :: rest => performOp op { s with pending := rest }
  | [] =>
    match s.fault with
    | some k => .fault (.halted k)
    | none => stepOne s

/-- The address the next instruction is fetched from: `PC`, or 0x200 where no word can be fetched at `PC`. -/
def State.fetchAddress (s : State) : Nat := if s.pc.toNat > 0xFFE then Config.romBase else s.pc.toNat

/-- `s` with the instruction whose table word is `w` stored where the very next step fetches it: the two bytes at the
fetch address, nothing pending before that step, and no latched fault. -/
def State.withFetchWord (s : State) (nbits w : Nat) : State :=
  { s with
    ram := (s.ram.write s.fetchAddress (tableHi nbits w)).write (s.fetchAddress + 1) (tableLo nbits w)
    pc := BitVec.ofNat 16 s.fetchAddress
    fault := none
    pending := [] }

end Sys2Proof.Machine
end

