-- ==== Sys2Proof/Safety.lean ====
section
/-! DEFINITION. The terms claims are stated in: the invariant of the machine, what an operation may change, and
what counts as a safe run. -/

namespace Sys2Proof.Machine

/-! ### The invariant (10_state.md rule R29) -/

/-- An entry of `STACK` is 0 or an address CALL pushes, 0x002 to 0x1000 (R17, R29 item 5). -/
abbrev StackEntryOk (a : Word16) : Prop := a = 0#16 ∨ (0x002 ≤ a.toNat ∧ a.toNat ≤ 0x1000)

/-- The items of R29 that the types do not already say, and the canonical form of memory. -/
structure State.Inv (s : State) : Prop where
  /-- R29 item 2 -/
  i_le : s.i.toNat ≤ 0xFFF
  /-- R29 item 4 -/
  pc_le : s.pc.toNat ≤ 0x10FE
  /-- R29 item 5 -/
  stack_ok : ∀ k : Fin 16, StackEntryOk s.stack[k]
  /-- equal memories are equal data -/
  ram_wf : s.ram.wf = true

/-! ### What an operation may change -/

/-- The items of the state other than the V registers and RAM. -/
inductive Item where
  | i | pc | stack | sp | fb | keys | dt | st | draw | fault | result | pending | rng
  deriving DecidableEq, Repr

/-- An item has the same value in both states. -/
def Item.Same (it : Item) (s t : State) : Prop :=
  match it with
  | .i => t.i = s.i
  | .pc => t.pc = s.pc
  | .stack => t.stack = s.stack
  | .sp => t.sp = s.sp
  | .fb => t.fb = s.fb
  | .keys => t.keys = s.keys
  | .dt => t.dt = s.dt
  | .st => t.st = s.st
  | .draw => t.draw = s.draw
  | .fault => t.fault = s.fault
  | .result => t.result = s.result
  | .pending => t.pending = s.pending
  | .rng => t.rngFeed = s.rngFeed ∧ t.rngDraws = s.rngDraws

/-- The frame: from `s` to `t` nothing changes but the registers in `regs`, the items in `items` and the bytes of
RAM whose addresses are in `mem`. -/
def ChangesOnly (regs : Reg → Prop) (items : List Item) (mem : Addr → Prop) (s t : State) : Prop :=
  (∀ r, ¬ regs r → t.reg r = s.reg r) ∧ (∀ it, it ∉ items → it.Same s t) ∧
    (∀ a, ¬ mem a → t.memRead a = s.memRead a)

/-- No V register. -/
def noReg : Reg → Prop := fun _ => False

/-- No byte of RAM. -/
def noByte : Addr → Prop := fun _ => False

/-- `t` is the state of a completed instruction: `PC` is `target` and the step returned `Ok` (R7, R15). -/
def Completed (t : State) (target : Word16) : Prop := t.pc = target ∧ t.result = some .ok

/-- One register, as the destination of an instruction. -/
def only (x : Reg) : Reg → Prop := fun r => r = x

/-- A destination register and VF. -/
def andFlag (x : Reg) : Reg → Prop := fun r => r = x ∨ r = 15

/-- The items every completed instruction writes: `PC`, and the model's record of the result. -/
abbrev plain : List Item := [.pc, .result]

/-- The bytes `EA(0)` to `EA(n-1)` of a state (20_memory.md rule R44). -/
def bytesAtI (s : State) (n : Nat) : Addr → Prop := fun a => ∃ k, k < n ∧ a = s.ea k

/-! ### Safe runs -/

/-- Not halted: no fault is latched (R24, R165). -/
abbrev State.NotHalted (s : State) : Prop := s.fault = none

/-- A run of `n` steps is safe when it never latches a fault: neither `s` nor any state after it is halted. -/
def SafeRun (n : Nat) (s : State) : Prop :=
  match n with
  | 0 => s.NotHalted
  | k + 1 =>
    s.NotHalted ∧
      match step s with
      | .next t => SafeRun k t
      | .fault _ => False
      | .refused _ => False

end Sys2Proof.Machine
end

