-- ==== Sys2Proof/Certificates/Slice0/Obligations.lean ====
section
/-! DEFINITION. The statements for the provers. Words are written as numbers, `0x6000 + 0x100 * x + kk`, from the
patterns of 30_encoding.md rule R65; frames say what an instruction may change (`ChangesOnly` of Safety.lean). -/

open Sys2Proof Sys2Proof.Machine

namespace Sys2Proof.Claims

/-! ### Words used in statements -/

/-- The word of number `n`. -/
abbrev word (n : Nat) : Word16 := BitVec.ofNat 16 n

/-- Mask and match of each row of the table (R65). -/
def rowOf : Instr → Word16 × Word16
  | .cls => (0xFFFF, 0x00E0)
  | .ret => (0xFFFF, 0x00EE)
  | .sys _ => (0xF000, 0x0000)
  | .jp _ => (0xF000, 0x1000)
  | .call _ => (0xF000, 0x2000)
  | .seVxKk _ _ => (0xF000, 0x3000)
  | .sneVxKk _ _ => (0xF000, 0x4000)
  | .seVxVy _ _ => (0xF00F, 0x5000)
  | .ldVxKk _ _ => (0xF000, 0x6000)
  | .addVxKk _ _ => (0xF000, 0x7000)
  | .ldVxVy _ _ => (0xF00F, 0x8000)
  | .orVxVy _ _ => (0xF00F, 0x8001)
  | .andVxVy _ _ => (0xF00F, 0x8002)
  | .xorVxVy _ _ => (0xF00F, 0x8003)
  | .addVxVy _ _ => (0xF00F, 0x8004)
  | .subVxVy _ _ => (0xF00F, 0x8005)
  | .shrVxVy _ _ => (0xF00F, 0x8006)
  | .subnVxVy _ _ => (0xF00F, 0x8007)
  | .shlVxVy _ _ => (0xF00F, 0x800E)
  | .sneVxVy _ _ => (0xF00F, 0x9000)
  | .ldINnn _ => (0xF000, 0xA000)
  | .jpV0Nnn _ => (0xF000, 0xB000)
  | .rndVxKk _ _ => (0xF000, 0xC000)
  | .drwVxVyN _ _ _ => (0xF000, 0xD000)
  | .skpVx _ => (0xF0FF, 0xE09E)
  | .sknpVx _ => (0xF0FF, 0xE0A1)
  | .ldVxDt _ => (0xF0FF, 0xF007)
  | .ldVxK _ => (0xF0FF, 0xF00A)
  | .ldDtVx _ => (0xF0FF, 0xF015)
  | .ldStVx _ => (0xF0FF, 0xF018)
  | .addIVx _ => (0xF0FF, 0xF01E)
  | .ldFVx _ => (0xF0FF, 0xF029)
  | .ldBVx _ => (0xF0FF, 0xF033)
  | .ldMemVx _ => (0xF0FF, 0xF055)
  | .ldVxMem _ => (0xF0FF, 0xF065)

/-- The operands of an instruction are the fields of the word, by the extraction conventions of R62. -/
def operandsOf (op : Word16) : Instr → Prop
  | .cls | .ret => True
  | .sys nnn | .jp nnn | .call nnn | .ldINnn nnn | .jpV0Nnn nnn => nnn.toNat = op.toNat &&& 0x0FFF
  | .seVxKk x kk | .sneVxKk x kk | .ldVxKk x kk | .addVxKk x kk | .rndVxKk x kk =>
    x.val = (op.toNat >>> 8) &&& 0x0F ∧ kk.toNat = op.toNat &&& 0x00FF
  | .seVxVy x y | .ldVxVy x y | .orVxVy x y | .andVxVy x y | .xorVxVy x y | .addVxVy x y | .subVxVy x y
  | .shrVxVy x y | .subnVxVy x y | .shlVxVy x y | .sneVxVy x y =>
    x.val = (op.toNat >>> 8) &&& 0x0F ∧ y.val = (op.toNat >>> 4) &&& 0x0F
  | .drwVxVyN x y n =>
    x.val = (op.toNat >>> 8) &&& 0x0F ∧ y.val = (op.toNat >>> 4) &&& 0x0F ∧ n.val = op.toNat &&& 0x000F
  | .skpVx x | .sknpVx x | .ldVxDt x | .ldVxK x | .ldDtVx x | .ldStVx x | .addIVx x | .ldFVx x | .ldBVx x
  | .ldMemVx x | .ldVxMem x => x.val = (op.toNat >>> 8) &&& 0x0F

/-- The words of no row, space by space, as R66 lists them. -/
def illegalWord (op : Word16) : Prop :=
  let major := op.toNat / 0x1000
  let n := op.toNat % 0x10
  let kk := op.toNat % 0x100
  (major = 0x5 ∧ n ≠ 0) ∨ (major = 0x8 ∧ n ∈ [8, 9, 0xA, 0xB, 0xC, 0xD, 0xF]) ∨ (major = 0x9 ∧ n ≠ 0) ∨
    (major = 0xE ∧ kk ∉ [0x9E, 0xA1]) ∨
    (major = 0xF ∧ kk ∉ [0x07, 0x0A, 0x15, 0x18, 0x1E, 0x29, 0x33, 0x55, 0x65])

/-- The sprite of `n` rows at `I`, drawn at column `x0` and row `y0`, has a 1 at `(X, Y)` (R137). -/
def spriteAt (s : State) (x0 y0 n X Y : Nat) : Prop :=
  x0 ≤ X ∧ X < x0 + 8 ∧ y0 ≤ Y ∧ Y < y0 + n ∧
    (s.memRead (s.ea (Y - y0))).toNat / 2 ^ (7 - (X - x0)) % 2 = 1

/-- `(X, Y)` is on the display (R19). -/
def onDisplay (X Y : Nat) : Prop := X ≤ 63 ∧ Y ≤ 31

/-- Every piece of state is at the value R26 gives it. -/
def atReset (t : State) : Prop :=
  (∀ a : Addr, t.memRead a = if 0x050 ≤ a.toNat ∧ a.toNat ≤ 0x09F then font.getD (a.toNat - 0x050) 0 else 0) ∧
    (∀ r : Reg, t.reg r = 0) ∧ t.i = 0 ∧ t.pc = 0x200 ∧ (∀ k : Fin 16, t.stack[k] = 0) ∧ t.sp = 0 ∧
    (∀ X Y, t.pixel X Y = false) ∧ (∀ k, t.keyDown k = false) ∧ t.dt = 0 ∧ t.st = 0 ∧ t.draw = true ∧
    t.fault = none

/-- The registers an instruction writes, VF included where it is written as a flag. -/
def writesReg : Instr → Reg → Prop
  | .cls | .ret | .sys _ | .jp _ | .call _ | .ldINnn _ | .jpV0Nnn _ => noReg
  | .seVxKk _ _ | .sneVxKk _ _ | .seVxVy _ _ | .sneVxVy _ _ | .skpVx _ | .sknpVx _ => noReg
  | .ldDtVx _ | .ldStVx _ | .ldFVx _ | .ldBVx _ | .ldMemVx _ => noReg
  | .ldVxKk x _ | .addVxKk x _ | .ldVxVy x _ | .orVxVy x _ | .andVxVy x _ | .xorVxVy x _ => only x
  | .rndVxKk x _ | .ldVxDt x | .ldVxK x => only x
  | .addVxVy x _ | .subVxVy x _ | .shrVxVy x _ | .subnVxVy x _ | .shlVxVy x _ => andFlag x
  | .addIVx _ | .drwVxVyN _ _ _ => only 15
  | .ldVxMem x => fun r => r ≤ x

/-- The items an instruction may write beside registers and RAM, in the rules of files 40 to 44 and R164. -/
def writesItem : Instr → List Item
  | .cls | .drwVxVyN _ _ _ => .fb :: .draw :: plain
  | .ret => .sp :: .fault :: plain
  | .call _ => .stack :: .sp :: .fault :: plain
  | .ldINnn _ | .addIVx _ | .ldFVx _ => .i :: plain
  | .rndVxKk _ _ => .rng :: plain
  | .ldDtVx _ => .dt :: plain
  | .ldStVx _ => .st :: plain
  | .sys _ | .jp _ | .jpV0Nnn _ | .seVxKk _ _ | .sneVxKk _ _ | .seVxVy _ _ | .sneVxVy _ _ => plain
  | .skpVx _ | .sknpVx _ | .ldVxKk _ _ | .addVxKk _ _ | .ldVxVy _ _ | .orVxVy _ _ | .andVxVy _ _ => plain
  | .xorVxVy _ _ | .addVxVy _ _ | .subVxVy _ _ | .shrVxVy _ _ | .subnVxVy _ _ | .shlVxVy _ _ => plain
  | .ldVxDt _ | .ldVxK _ | .ldBVx _ | .ldMemVx _ | .ldVxMem _ => plain

/-- How many bytes an instruction stores at `I` (R45). -/
def storesAtI : Instr → Nat
  | .ldBVx _ => 3
  | .ldMemVx x => x.val + 1
  | .cls | .ret | .sys _ | .jp _ | .call _ | .ldINnn _ | .jpV0Nnn _ => 0
  | .seVxKk _ _ | .sneVxKk _ _ | .seVxVy _ _ | .sneVxVy _ _ | .skpVx _ | .sknpVx _ => 0
  | .ldDtVx _ | .ldStVx _ | .ldFVx _ | .ldVxKk _ _ | .addVxKk _ _ | .ldVxVy _ _ | .orVxVy _ _ => 0
  | .andVxVy _ _ | .xorVxVy _ _ | .rndVxKk _ _ | .ldVxDt _ | .ldVxK _ | .addVxVy _ _ | .subVxVy _ _ => 0
  | .shrVxVy _ _ | .subnVxVy _ _ | .shlVxVy _ _ | .addIVx _ | .drwVxVyN _ _ _ | .ldVxMem _ => 0

/-- The VF-writers of R12: the instructions that write VF as a flag. -/
def writesFlag : Instr → Prop
  | .addVxVy _ _ | .subVxVy _ _ | .shrVxVy _ _ | .subnVxVy _ _ | .shlVxVy _ _ => True
  | .addIVx _ | .drwVxVyN _ _ _ => True
  | .cls | .ret | .sys _ | .jp _ | .call _ | .ldINnn _ | .jpV0Nnn _ => False
  | .seVxKk _ _ | .sneVxKk _ _ | .seVxVy _ _ | .sneVxVy _ _ | .skpVx _ | .sknpVx _ => False
  | .ldDtVx _ | .ldStVx _ | .ldFVx _ | .ldBVx _ | .ldMemVx _ | .ldVxMem _ => False
  | .ldVxKk _ _ | .addVxKk _ _ | .ldVxVy _ _ | .orVxVy _ _ | .andVxVy _ _ | .xorVxVy _ _ => False
  | .rndVxKk _ _ | .ldVxDt _ | .ldVxK _ => False

/-- The instructions for which VF is the ordinary destination (the exception R12 names). -/
def destIsVF : Instr → Prop
  | .ldVxKk x _ | .addVxKk x _ | .ldVxVy x _ | .orVxVy x _ | .andVxVy x _ | .xorVxVy x _ => x = 15
  | .rndVxKk x _ | .ldVxDt x | .ldVxK x | .ldVxMem x => x = 15
  | .addVxVy _ _ | .subVxVy _ _ | .shrVxVy _ _ | .subnVxVy _ _ | .shlVxVy _ _ => False
  | .addIVx _ | .drwVxVyN _ _ _ => False
  | .cls | .ret | .sys _ | .jp _ | .call _ | .ldINnn _ | .jpV0Nnn _ => False
  | .seVxKk _ _ | .sneVxKk _ _ | .seVxVy _ _ | .sneVxVy _ _ | .skpVx _ | .sknpVx _ => False
  | .ldDtVx _ | .ldStVx _ | .ldFVx _ | .ldBVx _ | .ldMemVx _ => False

/-- The new `PC` of an instruction that completes, row by row as the table of R15 gives it, the predicates of the skips as
R84 to R87, R146 and R147 give them: `a` is the entry that
RET pops, `held` says whether a skip's predicate holds. -/
def newPC (i : Instr) (s : State) (a : Word16) : Word16 :=
  let skip (held : Bool) : Word16 := s.pc + (if held then 4 else 2)
  match i with
  | .jp nnn | .call nnn => word nnn.toNat
  | .jpV0Nnn nnn => word (nnn.toNat + (s.reg 0).toNat)
  | .ret => a
  | .seVxKk x kk => skip (s.reg x = kk)
  | .sneVxKk x kk => skip (s.reg x ≠ kk)
  | .seVxVy x y => skip (s.reg x = s.reg y)
  | .sneVxVy x y => skip (s.reg x ≠ s.reg y)
  | .skpVx x => skip (s.keyDown (keyNumber (s.reg x)))
  | .sknpVx x => skip (!s.keyDown (keyNumber (s.reg x)))
  | .cls | .sys _ | .ldINnn _ | .drwVxVyN _ _ _ | .rndVxKk _ _ | .ldVxKk _ _ | .addVxKk _ _ => s.pc + 2
  | .ldVxVy _ _ | .orVxVy _ _ | .andVxVy _ _ | .xorVxVy _ _ | .addVxVy _ _ | .subVxVy _ _ => s.pc + 2
  | .shrVxVy _ _ | .subnVxVy _ _ | .shlVxVy _ _ | .ldVxDt _ | .ldVxK _ | .ldDtVx _ | .ldStVx _ => s.pc + 2
  | .addIVx _ | .ldFVx _ | .ldBVx _ | .ldMemVx _ | .ldVxMem _ => s.pc + 2

end Sys2Proof.Claims

open Sys2Proof.Claims

/-! ### Encoding -/

/-- Words the manual writes out, with the instruction each stands for (95_test_vectors.md). -/
def Obligations.WordsOfTheManualDecode : Prop :=
  decode 0x00E0 = .instr .cls ∧ decode 0x00EE = .instr .ret ∧ decode 0x00E1 = .instr (.sys 0x0E1) ∧
  decode 0x2204 = .instr (.call 0x204) ∧ decode 0x4311 = .instr (.sneVxKk 3 0x11) ∧
  decode 0x9120 = .instr (.sneVxVy 1 2) ∧ decode 0xBFFF = .instr (.jpV0Nnn 0xFFF) ∧
  decode 0x82A6 = .instr (.shrVxVy 2 0xA) ∧ decode 0x8F17 = .instr (.subnVxVy 0xF 1) ∧
  decode 0xC30F = .instr (.rndVxKk 3 0x0F) ∧ decode 0xD123 = .instr (.drwVxVyN 1 2 3) ∧
  decode 0xE1A1 = .instr (.sknpVx 1) ∧ decode 0xF40A = .instr (.ldVxK 4) ∧
  decode 0xF155 = .instr (.ldMemVx 1) ∧ decode 0x5121 = .illegal 0x5121 ∧ decode 0x800D = .illegal 0x800D ∧
  decode 0xE09D = .illegal 0xE09D ∧ decode 0xF030 = .illegal 0xF030

/-- Every well-formed instruction, laid out as the bytes RAM holds, decodes to itself and leaves the rest. -/
def Obligations.DecodeOfEncodeIsIdentity : Prop :=
  ∀ (i : Instr) (rest : List Byte), i.wf = true → decodeBytes (encodeBytes i ++ rest) = .instr i rest

/-- A word that decodes has one meaning, and it is the encoding of that instruction. -/
def Obligations.EncodeOfDecodeIsIdentity : Prop :=
  ∀ (op : Word16) (i : Instr), decode op = .instr i → i.wf = true ∧ encode i = op

/-- R65, with the priority of R64 and the operands of R62: a word is the instruction of a row exactly when its
masked bits are the row's match and the operands are its fields; 0nnn yields to 00E0 and 00EE. -/
def Obligations.OpcodeMapByMaskAndMatch : Prop :=
  ∀ (op : Word16) (i : Instr), decode op = .instr i ↔
    (op &&& (rowOf i).1 = (rowOf i).2 ∧ operandsOf op i ∧
      ((∃ nnn, i = .sys nnn) → op ≠ 0x00E0 ∧ op ≠ 0x00EE))

/-- R66, R68: the illegal words are those of the five spaces, each labelled with itself; every other word decodes. -/
def Obligations.IllegalWordsAreThoseOfTheTable : Prop :=
  ∀ op : Word16, (illegalWord op → decode op = .illegal op) ∧ (¬ illegalWord op → ∃ i, decode op = .instr i)

/-! ### Reset, load and the invariant -/

/-- R26: every piece of state in the state after reset, and after `reset()` from any state. The font is the eighty
bytes of the table `font`, whatever they are. -/
def Obligations.ResetPutsEveryItemAtItsValue : Prop :=
  font.length = 80 ∧ atReset State.reset ∧ ∀ s : State, ∃ t, performOp .reset s = .next t ∧ atReset t

/-- The state after reset meets the invariant. -/
def Obligations.ResetMeetsInvariant : Prop := State.reset.Inv

/-- R29 items 2, 4, 5, and the canonical form of RAM: every step, of the core or of the host, keeps the invariant. -/
def Obligations.EveryStepKeepsInvariant : Prop := ∀ s t : State, s.Inv → step s = .next t → t.Inv

/-- R192, R193: what `load` leaves, for every ROM; 3584 bytes load, 3585 fail. What a load that fails leaves is the
spec's decision D10 (log entry 13). -/
def Obligations.LoadCopiesTheRomOrFails : Prop :=
  ∀ (s : State) (rom : List Byte), ∃ t, performOp (.load rom) s = .next t ∧
    (rom.length ≤ 3584 →
      (∀ a : Addr, t.memRead a =
        if 0x200 ≤ a.toNat ∧ a.toNat < 0x200 + rom.length then rom.getD (a.toNat - 0x200) 0
        else s.doReset.memRead a) ∧
      t = { s.doReset with ram := t.ram, result := some .ok } ∧ t.draw = true) ∧
    (3584 < rom.length →
      t = { s.doReset with fault := some .romTooLarge, result := some (.fault .romTooLarge) })

/-- Memory is canonical data: two canonical memories that read the same at every address are the same list. -/
def Obligations.EqualMemoriesAreEqualData : Prop :=
  ∀ m m' : Memory, m.wf = true → m'.wf = true → (∀ a : Addr, m.read a.toNat = m'.read a.toNat) → m = m'

/-! ### The step -/

/-- When the bytes at `PC` decode to an instruction and nothing is latched, a step is `exec` of that instruction: with
no host operation pending, and with a `step_one` of the host pending (which is then taken off). Any other pending
operation of the host runs first. -/
def Obligations.StepRunsTheDecodedInstruction : Prop :=
  ∀ (s : State) (i : Instr), s.fault = none → s.pc.toNat ≤ 0xFFE →
    decode (wordOfBytes (s.memRead (BitVec.ofNat 12 s.pc.toNat))
      (s.memRead (BitVec.ofNat 12 (s.pc.toNat + 1)))) = .instr i →
    (s.pending = [] → step s = exec i s) ∧
    (∀ rest, s.pending = .stepOne :: rest → step s = exec i { s with pending := rest }) ∧
    (∀ op rest, s.pending = op :: rest → step s = performOp op { s with pending := rest })

/-- R42: a `PC` above 0xFFE faults `BadPC` before anything is fetched, and no other `PC` does; at 0xFFE the word is
that of the last two bytes. -/
def Obligations.FetchAbove0xFFEFaultsBadPC : Prop :=
  ∀ s : State, s.fault = none →
    (0xFFE < s.pc.toNat →
      stepOne s = .next { s with fault := some .badPC, result := some (.fault .badPC) }) ∧
    (s.pc.toNat ≤ 0xFFE → ∀ t, stepOne s = .next t → t.fault ≠ some .badPC) ∧
    (s.pc = 0xFFE → s.fetchWord = wordOfBytes (s.memRead 0xFFE) (s.memRead 0xFFF))

/-- An illegal word at `PC` faults `IllegalOpcode` with the word; that `PC` is not advanced is the spec's decision D7
(log entry 11). -/
def Obligations.IllegalWordFaultsAtItsAddress : Prop :=
  ∀ s : State, s.fault = none → s.pc.toNat ≤ 0xFFE → illegalWord s.fetchWord →
    stepOne s = .next { s with fault := some (.illegalOpcode s.fetchWord),
                               result := some (.fault (.illegalOpcode s.fetchWord)) }

/-- R161: what raises which fault. Every instruction but CALL and RET completes, or waits if it is Fx0A. -/
def Obligations.FaultsComeOnlyFromTheirSources : Prop :=
  (∀ (s t : State) (k : FaultKind), s.fault = none → stepOne s = .next t → t.fault = some k →
    (k = .badPC ∧ 0xFFE < s.pc.toNat) ∨
    (k = .illegalOpcode s.fetchWord ∧ s.pc.toNat ≤ 0xFFE ∧ illegalWord s.fetchWord) ∨
    (k = .stackOverflow ∧ s.pc.toNat ≤ 0xFFE ∧ s.sp.val = 16 ∧ ∃ nnn, decode s.fetchWord = .instr (.call nnn)) ∨
    (k = .stackUnderflow ∧ s.pc.toNat ≤ 0xFFE ∧ s.sp.val = 0 ∧ decode s.fetchWord = .instr .ret)) ∧
  (∀ (i : Instr) (s : State), (∀ nnn, i ≠ .call nnn) → i ≠ .ret → ∃ t, exec i s = .next t ∧
    (t.result = some .ok ∨ (t.result = some .waitingForKey ∧ ∃ x, i = .ldVxK x)) ∧ t.fault = s.fault)

/-- R164: a step that latches a fault writes nothing else; `PC` and all the rest are as before, and the step
returns the fault. For `PC` after an illegal word this is the spec's decision D7 (log entry 11). -/
def Obligations.FaultsArePrecise : Prop :=
  ∀ (s t : State) (k : FaultKind), s.fault = none → stepOne s = .next t → t.fault = some k →
    t = { s with fault := some k, result := some (.fault k) }

/-- R165: while a fault is latched, `step_one` writes nothing and returns it again, the other operations of the host
act as usual (the spec's decision D8, log entry 12), and only `reset` and `load` clear the latch. -/
def Obligations.HaltedUntilResetOrLoad : Prop :=
  ∀ (s : State) (k : FaultKind), s.fault = some k →
    stepOne s = .next { s with result := some (.fault k) } ∧
    (∀ (op : HostOp) (t : State), performOp op s = .next t →
      t.fault = some k ∨ op = .reset ∨ ∃ rom, op = .load rom) ∧
    performOp .tickTimers s = .next s.tickTimers ∧
    (∀ j d, performOp (.setKey j d) s = .next (s.setKey j d)) ∧
    performOp .presentAck s = .next s.presentAck ∧
    (∃ t, performOp .reset s = .next t ∧ t.fault = none)

/-- The end of a run in this model (R206 (a); log entry 1): a step stops exactly when a fault is latched and the host
has nothing pending; otherwise it goes on. -/
def Obligations.StepStopsExactlyWhenHaltedForGood : Prop :=
  ∀ s : State, (∀ k, step s = .fault (.halted k) ↔ s.fault = some k ∧ s.pending = []) ∧
    (s.fault = none ∨ s.pending ≠ [] → ∃ t, step s = .next t)

/-- The machine waits exactly when the next `step_one` returns `WaitingForKey`, and that step changes no state of
the core (R148, R168; log entry 26). -/
def Obligations.WaitingMeansTheStepChangesNothing : Prop :=
  ∀ s : State, s.fault = none →
    (s.condition = .waiting ↔ ∃ t, stepOne s = .next t ∧ t.result = some .waitingForKey) ∧
    (s.condition = .waiting → stepOne s = .next { s with result := some .waitingForKey })

/-- R172, R177, R179: the tick, a key update and the acknowledge, and that each changes nothing else. -/
def Obligations.HostOperationsWriteTheirItemOnly : Prop :=
  ∀ s : State,
    (∃ t, performOp .tickTimers s = .next t ∧ t.dt.toNat = s.dt.toNat - 1 ∧ t.st.toNat = s.st.toNat - 1 ∧
      ChangesOnly noReg [.dt, .st] noByte s t) ∧
    (∀ k d, ∃ t, performOp (.setKey k d) s = .next t ∧
      (∀ j, t.keyDown j = if j = k then d else s.keyDown j) ∧ ChangesOnly noReg [.keys] noByte s t) ∧
    (∃ t, performOp .presentAck s = .next t ∧ t.draw = false ∧ ChangesOnly noReg [.draw] noByte s t)

/-- Which steps are safe: with no fault latched and no host operation pending (log entry 1), a step goes on, and it
leaves no fault latched exactly when `PC` can be fetched from, the word there is legal, and it is neither a CALL with
16 addresses held nor a RET with none (R161). -/
def Obligations.StepLatchesNoFaultOnALegalWord : Prop :=
  ∀ s : State, s.fault = none → s.pending = [] → ∃ t, step s = .next t ∧
    (t.fault = none ↔ s.pc.toNat ≤ 0xFFE ∧ ¬ illegalWord s.fetchWord ∧
      ¬ (s.fetchWord.toNat / 0x1000 = 2 ∧ s.sp.val = 16) ∧ ¬ (s.fetchWord = 0x00EE ∧ s.sp.val = 0))

/-- Zeroed RAM executes as a run of no-operations (R43, R80, R190): from a `PC` at which `2 * n` zero bytes begin,
`n` steps only add `2 * n` to `PC`. -/
def Obligations.ZeroedMemoryIsWalkedThrough : Prop :=
  ∀ (n : Nat) (s : State), s.fault = none → s.pending = [] → s.pc.toNat + 2 * n ≤ 0x1000 →
    (∀ a : Addr, s.pc.toNat ≤ a.toNat → a.toNat < s.pc.toNat + 2 * n → s.memRead a = 0) →
    ∃ t, Sys2Proof.core.run n s = .next t ∧ t.pc.toNat = s.pc.toNat + 2 * n ∧
      ChangesOnly noReg [.pc, .result] noByte s t

/-! ### Control transfer -/

/-- R80; that `nnn` is used for nothing is the spec's decision D13 (log entry 16). -/
def Obligations.SysOnlyAdvancesPC : Prop :=
  ∀ (nnn : Addr) (s : State), nnn ≠ 0x0E0 → nnn ≠ 0x0EE → decode (word nnn.toNat) = .instr (.sys nnn) ∧
    ∃ t, exec (.sys nnn) s = .next t ∧ Completed t (s.pc + 2) ∧ ChangesOnly noReg plain noByte s t

/-- R81: below 16 held addresses CALL pushes `PC + 2` and jumps; at 16 it faults and writes nothing else. That the pushed
value is not reduced to 12 bits is the spec's decision D2 (log entry 7). -/
def Obligations.CallPushesTheReturnAddress : Prop :=
  ∀ (nnn : Addr) (s : State), decode (word (0x2000 + nnn.toNat)) = .instr (.call nnn) ∧
    (s.sp.val ≠ 16 → ∃ t, exec (.call nnn) s = .next t ∧ Completed t (word nnn.toNat) ∧
      (∀ k : Fin 16, t.stack[k] = if k.val = s.sp.val then s.pc + 2 else s.stack[k]) ∧
      t.sp.val = s.sp.val + 1 ∧ ChangesOnly noReg (.stack :: .sp :: plain) noByte s t) ∧
    (s.sp.val = 16 → exec (.call nnn) s =
      .next { s with fault := some .stackOverflow, result := some (.fault .stackOverflow) })

/-- R82: RET takes the entry at the new `SP` into `PC`, adds nothing, leaves the cell; at `SP = 0` it faults. -/
def Obligations.RetPopsThePC : Prop :=
  decode 0x00EE = .instr .ret ∧ ∀ s : State,
    (∀ k : Fin 16, s.sp.val = k.val + 1 → ∃ t, exec .ret s = .next t ∧ Completed t s.stack[k] ∧
      t.sp.val = k.val ∧ ChangesOnly noReg (.sp :: plain) noByte s t) ∧
    (s.sp.val = 0 → exec .ret s =
      .next { s with fault := some .stackUnderflow, result := some (.fault .stackUnderflow) })

/-- R83 -/
def Obligations.JumpSetsPC : Prop :=
  ∀ (nnn : Addr) (s : State), decode (word (0x1000 + nnn.toNat)) = .instr (.jp nnn) ∧
    ∃ t, exec (.jp nnn) s = .next t ∧ Completed t (word nnn.toNat) ∧ ChangesOnly noReg plain noByte s t

/-- R84, R85: the skips on a constant. -/
def Obligations.SkipsOnAConstant : Prop :=
  ∀ (x : Reg) (kk : Byte) (s : State),
    (decode (word (0x3000 + 0x100 * x.val + kk.toNat)) = .instr (.seVxKk x kk) ∧
      ∃ t, exec (.seVxKk x kk) s = .next t ∧ Completed t (s.pc + if s.reg x = kk then 4 else 2) ∧
        ChangesOnly noReg plain noByte s t) ∧
    (decode (word (0x4000 + 0x100 * x.val + kk.toNat)) = .instr (.sneVxKk x kk) ∧
      ∃ t, exec (.sneVxKk x kk) s = .next t ∧ Completed t (s.pc + if s.reg x ≠ kk then 4 else 2) ∧
        ChangesOnly noReg plain noByte s t)

/-- R86, R87: the skips on two registers; with `x = y` SE always skips and SNE never does. -/
def Obligations.SkipsOnTwoRegisters : Prop :=
  ∀ (x y : Reg) (s : State),
    (decode (word (0x5000 + 0x100 * x.val + 0x10 * y.val)) = .instr (.seVxVy x y) ∧
      ∃ t, exec (.seVxVy x y) s = .next t ∧ Completed t (s.pc + if s.reg x = s.reg y then 4 else 2) ∧
        ChangesOnly noReg plain noByte s t) ∧
    (decode (word (0x9000 + 0x100 * x.val + 0x10 * y.val)) = .instr (.sneVxVy x y) ∧
      ∃ t, exec (.sneVxVy x y) s = .next t ∧ Completed t (s.pc + if s.reg x ≠ s.reg y then 4 else 2) ∧
        ChangesOnly noReg plain noByte s t)

/-- R88: `PC` is the sum of `nnn` and `V[0]`. That it is not reduced modulo 4096 is the spec's decision D1 (log entry 7). -/
def Obligations.JumpWithOffsetAddsV0 : Prop :=
  ∀ (nnn : Addr) (s : State), decode (word (0xB000 + nnn.toNat)) = .instr (.jpV0Nnn nnn) ∧
    ∃ t, exec (.jpV0Nnn nnn) s = .next t ∧ t.pc.toNat = nnn.toNat + (s.reg 0).toNat ∧
      t.result = some .ok ∧ ChangesOnly noReg plain noByte s t

/-- CALL and RET are inverse: whatever `PC` has become, RET after CALL returns to the instruction after the CALL with
the old `SP`, and only the stack cell it used differs (DOC1's scenario 4). -/
def Obligations.CallThenRetReturns : Prop :=
  ∀ (nnn : Addr) (s : State), s.sp.val ≠ 16 → ∃ t, exec (.call nnn) s = .next t ∧
    ∀ pc : Word16, ∃ u, exec .ret { t with pc := pc } = .next u ∧ Completed u (s.pc + 2) ∧
      (∀ k : Fin 16, k.val ≠ s.sp.val → u.stack[k] = s.stack[k]) ∧
      ChangesOnly noReg (.stack :: plain) noByte s u

/-! ### Loads, ALU and random -/

/-- R100 -/
def Obligations.LoadConstant : Prop :=
  ∀ (x : Reg) (kk : Byte) (s : State),
    decode (word (0x6000 + 0x100 * x.val + kk.toNat)) = .instr (.ldVxKk x kk) ∧
    ∃ t, exec (.ldVxKk x kk) s = .next t ∧ t.reg x = kk ∧ Completed t (s.pc + 2) ∧
      ChangesOnly (only x) plain noByte s t

/-- R101: VF is not written as a flag. -/
def Obligations.AddConstantDropsTheCarry : Prop :=
  ∀ (x : Reg) (kk : Byte) (s : State),
    decode (word (0x7000 + 0x100 * x.val + kk.toNat)) = .instr (.addVxKk x kk) ∧
    ∃ t, exec (.addVxKk x kk) s = .next t ∧ (t.reg x).toNat = ((s.reg x).toNat + kk.toNat) % 256 ∧
      Completed t (s.pc + 2) ∧ ChangesOnly (only x) plain noByte s t

/-- 8xy0 to 8xy3: register copy, OR, AND, XOR, with VF unchanged unless it is the destination. That these four
words have these four meanings is the spec's general knowledge, not its source's (log entry 5). -/
def Obligations.CopyAndLogicLeaveVF : Prop :=
  ∀ (x y : Reg) (s : State),
    (decode (word (0x8000 + 0x100 * x.val + 0x10 * y.val)) = .instr (.ldVxVy x y) ∧
      ∃ t, exec (.ldVxVy x y) s = .next t ∧ t.reg x = s.reg y ∧ Completed t (s.pc + 2) ∧
        ChangesOnly (only x) plain noByte s t) ∧
    (decode (word (0x8001 + 0x100 * x.val + 0x10 * y.val)) = .instr (.orVxVy x y) ∧
      ∃ t, exec (.orVxVy x y) s = .next t ∧ t.reg x = s.reg x ||| s.reg y ∧ Completed t (s.pc + 2) ∧
        ChangesOnly (only x) plain noByte s t) ∧
    (decode (word (0x8002 + 0x100 * x.val + 0x10 * y.val)) = .instr (.andVxVy x y) ∧
      ∃ t, exec (.andVxVy x y) s = .next t ∧ t.reg x = s.reg x &&& s.reg y ∧ Completed t (s.pc + 2) ∧
        ChangesOnly (only x) plain noByte s t) ∧
    (decode (word (0x8003 + 0x100 * x.val + 0x10 * y.val)) = .instr (.xorVxVy x y) ∧
      ∃ t, exec (.xorVxVy x y) s = .next t ∧ t.reg x = s.reg x ^^^ s.reg y ∧ Completed t (s.pc + 2) ∧
        ChangesOnly (only x) plain noByte s t)

/-- R106, with the aliasing of R113: the flag is what VF holds at the end, the sum is what any other `V[x]` holds. -/
def Obligations.AddSetsCarry : Prop :=
  ∀ (x y : Reg) (s : State),
    decode (word (0x8004 + 0x100 * x.val + 0x10 * y.val)) = .instr (.addVxVy x y) ∧
    ∃ t, exec (.addVxVy x y) s = .next t ∧
      (x ≠ 15 → (t.reg x).toNat = ((s.reg x).toNat + (s.reg y).toNat) % 256) ∧
      t.reg 15 = (if (s.reg x).toNat + (s.reg y).toNat > 0xFF then 1 else 0) ∧
      Completed t (s.pc + 2) ∧ ChangesOnly (andFlag x) plain noByte s t

/-- R107: NOT borrow; equal operands give 1. -/
def Obligations.SubSetsNotBorrow : Prop :=
  ∀ (x y : Reg) (s : State),
    decode (word (0x8005 + 0x100 * x.val + 0x10 * y.val)) = .instr (.subVxVy x y) ∧
    ∃ t, exec (.subVxVy x y) s = .next t ∧
      (x ≠ 15 → (t.reg x).toNat = ((s.reg x).toNat + 256 - (s.reg y).toNat) % 256) ∧
      t.reg 15 = (if (s.reg x).toNat ≥ (s.reg y).toNat then 1 else 0) ∧
      Completed t (s.pc + 2) ∧ ChangesOnly (andFlag x) plain noByte s t

/-- R108: `V[x]` is shifted, `y` is ignored. -/
def Obligations.ShiftRightSetsTheBitShiftedOut : Prop :=
  ∀ (x y : Reg) (s : State),
    decode (word (0x8006 + 0x100 * x.val + 0x10 * y.val)) = .instr (.shrVxVy x y) ∧
    ∃ t, exec (.shrVxVy x y) s = .next t ∧
      (x ≠ 15 → (t.reg x).toNat = (s.reg x).toNat / 2) ∧
      (t.reg 15).toNat = (s.reg x).toNat % 2 ∧
      Completed t (s.pc + 2) ∧ ChangesOnly (andFlag x) plain noByte s t

/-- R109 -/
def Obligations.SubReversedSetsNotBorrow : Prop :=
  ∀ (x y : Reg) (s : State),
    decode (word (0x8007 + 0x100 * x.val + 0x10 * y.val)) = .instr (.subnVxVy x y) ∧
    ∃ t, exec (.subnVxVy x y) s = .next t ∧
      (x ≠ 15 → (t.reg x).toNat = ((s.reg y).toNat + 256 - (s.reg x).toNat) % 256) ∧
      t.reg 15 = (if (s.reg y).toNat ≥ (s.reg x).toNat then 1 else 0) ∧
      Completed t (s.pc + 2) ∧ ChangesOnly (andFlag x) plain noByte s t

/-- R110: `V[x]` is shifted, `y` is ignored. -/
def Obligations.ShiftLeftSetsTheBitShiftedOut : Prop :=
  ∀ (x y : Reg) (s : State),
    decode (word (0x800E + 0x100 * x.val + 0x10 * y.val)) = .instr (.shlVxVy x y) ∧
    ∃ t, exec (.shlVxVy x y) s = .next t ∧
      (x ≠ 15 → (t.reg x).toNat = (s.reg x).toNat * 2 % 256) ∧
      (t.reg 15).toNat = (s.reg x).toNat / 128 ∧
      Completed t (s.pc + 2) ∧ ChangesOnly (andFlag x) plain noByte s t

/-- The masked random byte. The byte is whatever the port supplies (log entry 3): the first byte the host has fixed,
which is then gone, or a free value; exactly one is drawn. -/
def Obligations.RandomIsOneMaskedByteOfThePort : Prop :=
  ∀ (x : Reg) (kk : Byte) (s : State),
    decode (word (0xC000 + 0x100 * x.val + kk.toNat)) = .instr (.rndVxKk x kk) ∧
    ∃ t, exec (.rndVxKk x kk) s = .next t ∧
      (∀ b bs, s.rngFeed = b :: bs → t.reg x = b &&& kk ∧ t.rngFeed = bs ∧ t.rngDraws = s.rngDraws) ∧
      (s.rngFeed = [] →
        t.reg x = Config.rngByte s.rngDraws &&& kk ∧ t.rngFeed = [] ∧ t.rngDraws = s.rngDraws + 1) ∧
      Completed t (s.pc + 2) ∧ ChangesOnly (only x) (.rng :: plain) noByte s t

/-! ### Index register and memory -/

/-- R120 -/
def Obligations.LoadIndexConstant : Prop :=
  ∀ (nnn : Addr) (s : State), decode (word (0xA000 + nnn.toNat)) = .instr (.ldINnn nnn) ∧
    ∃ t, exec (.ldINnn nnn) s = .next t ∧ t.i.toNat = nnn.toNat ∧ Completed t (s.pc + 2) ∧
      ChangesOnly noReg (.i :: plain) noByte s t

/-- R121: VF is written in every case, from the old `I` and the old `V[x]`. -/
def Obligations.AddToIndexSetsOverflow : Prop :=
  ∀ (x : Reg) (s : State), decode (word (0xF01E + 0x100 * x.val)) = .instr (.addIVx x) ∧
    ∃ t, exec (.addIVx x) s = .next t ∧
      t.i.toNat = (s.i.toNat + (s.reg x).toNat) % 0x1000 ∧
      t.reg 15 = (if s.i.toNat + (s.reg x).toNat > 0xFFF then 1 else 0) ∧
      Completed t (s.pc + 2) ∧ ChangesOnly (only 15) (.i :: plain) noByte s t

/-- R122: only the low nibble is used. -/
def Obligations.GlyphAddressOfLowNibble : Prop :=
  ∀ (x : Reg) (s : State), decode (word (0xF029 + 0x100 * x.val)) = .instr (.ldFVx x) ∧
    ∃ t, exec (.ldFVx x) s = .next t ∧ t.i.toNat = 0x050 + ((s.reg x).toNat &&& 0x0F) * 5 ∧
      Completed t (s.pc + 2) ∧ ChangesOnly noReg (.i :: plain) noByte s t

/-- R124: hundreds, tens and ones at `EA(0)`, `EA(1)`, `EA(2)`, which wrap past 0xFFF (decision D3, log entry 6). RAM in its canonical form
(which every step keeps) holds what is stored. -/
def Obligations.BcdStoresThreeDigits : Prop :=
  ∀ (x : Reg) (s : State), decode (word (0xF033 + 0x100 * x.val)) = .instr (.ldBVx x) ∧
    ∃ t, exec (.ldBVx x) s = .next t ∧
      (s.ram.wf = true →
        (t.memRead (s.ea 0)).toNat = (s.reg x).toNat / 100 ∧
        (t.memRead (s.ea 1)).toNat = (s.reg x).toNat / 10 % 10 ∧
        (t.memRead (s.ea 2)).toNat = (s.reg x).toNat % 10) ∧
      (∀ a : Addr, (∀ k < 3, a ≠ s.ea k) → t.memRead a = s.memRead a) ∧
      Completed t (s.pc + 2) ∧ ChangesOnly noReg plain (bytesAtI s 3) s t

/-- R125: `V[0]` to `V[x]` at `EA(0)` to `EA(x)`, which wrap past 0xFFF (decision D3, log entry 6). -/
def Obligations.StoreRegistersAtI : Prop :=
  ∀ (x : Reg) (s : State), decode (word (0xF055 + 0x100 * x.val)) = .instr (.ldMemVx x) ∧
    ∃ t, exec (.ldMemVx x) s = .next t ∧
      (s.ram.wf = true → ∀ r : Reg, r ≤ x → t.memRead (s.ea r.val) = s.reg r) ∧
      (∀ a : Addr, (∀ k < x.val + 1, a ≠ s.ea k) → t.memRead a = s.memRead a) ∧
      Completed t (s.pc + 2) ∧ ChangesOnly noReg plain (bytesAtI s (x.val + 1)) s t

/-- R126: `V[0]` to `V[x]` from `EA(0)` to `EA(x)`, which wrap past 0xFFF (decision D3, log entry 6); the other
registers, RAM and `I` are unchanged. -/
def Obligations.LoadRegistersFromI : Prop :=
  ∀ (x : Reg) (s : State), decode (word (0xF065 + 0x100 * x.val)) = .instr (.ldVxMem x) ∧
    ∃ t, exec (.ldVxMem x) s = .next t ∧ (∀ r : Reg, r ≤ x → t.reg r = s.memRead (s.ea r.val)) ∧
      Completed t (s.pc + 2) ∧ ChangesOnly (fun r => r ≤ x) plain noByte s t

/-- Registers stored by `LD [I],Vx` and cleared in between come back by `LD Vx,[I]`, wherever `I` points: DOC1's
round trip, with the wrapping addresses of decision D3 (log entry 6). -/
def Obligations.StoredRegistersLoadBack : Prop :=
  ∀ (x : Reg) (s : State), s.ram.wf = true → ∃ t, exec (.ldMemVx x) s = .next t ∧
    ∀ (v : Vector Byte 16) (pc : Word16), ∃ u, exec (.ldVxMem x) { t with v := v, pc := pc } = .next u ∧
      ∀ r : Reg, r ≤ x → u.reg r = s.reg r

/-- A stored instruction is what the next fetch at its address sees (self-modifying code): the bytes `V[k]`, `V[k+1]`
stored at `EA(k)`, `EA(k+1)` are the word fetched there. -/
def Obligations.FetchSeesStoredInstruction : Prop :=
  ∀ (x k k' : Reg) (s : State), s.ram.wf = true → k' ≤ x → k'.val = k.val + 1 → (s.ea k.val).toNat ≤ 0xFFE →
    ∃ t, exec (.ldMemVx x) s = .next t ∧
      ({ t with pc := (s.ea k.val).setWidth 16 } : State).fetchWord = wordOfBytes (s.reg k) (s.reg k')

/-! ### Display -/

/-- R136 -/
def Obligations.ClearScreen : Prop :=
  decode 0x00E0 = .instr .cls ∧ ∀ s : State, ∃ t, exec .cls s = .next t ∧ (∀ X Y, t.pixel X Y = false) ∧
    t.draw = true ∧ Completed t (s.pc + 2) ∧ ChangesOnly noReg (.fb :: .draw :: plain) noByte s t

/-- R137: every pixel of the display is XORed with the sprite's bit, clipped at the edges, the start wrapped; VF is 1
when a lit sprite pixel met a lit pixel, else 0; the coordinates are those before VF is written. The sprite's rows are
at `EA(0)`, `EA(1)`, …, which wrap past 0xFFF (decision D3, log entry 6). -/
def Obligations.DrawXorsTheClippedSprite : Prop :=
  ∀ (x y : Reg) (n : Fin 16) (s : State),
    decode (word (0xD000 + 0x100 * x.val + 0x10 * y.val + n.val)) = .instr (.drwVxVyN x y n) ∧
    ∃ t, exec (.drwVxVyN x y n) s = .next t ∧
      (∀ X Y, onDisplay X Y → (t.pixel X Y = true ↔
        (s.pixel X Y = true ↔ ¬ spriteAt s ((s.reg x).toNat % 64) ((s.reg y).toNat % 32) n.val X Y))) ∧
      ((∃ X Y, onDisplay X Y ∧ s.pixel X Y = true ∧
          spriteAt s ((s.reg x).toNat % 64) ((s.reg y).toNat % 32) n.val X Y) → t.reg 15 = 1) ∧
      ((¬ ∃ X Y, onDisplay X Y ∧ s.pixel X Y = true ∧
          spriteAt s ((s.reg x).toNat % 64) ((s.reg y).toNat % 32) n.val X Y) → t.reg 15 = 0) ∧
      t.draw = true ∧ Completed t (s.pc + 2) ∧ ChangesOnly (only 15) (.fb :: .draw :: plain) noByte s t

/-- Drawing the same sprite twice at the same place restores the framebuffer, and the second draw collides exactly
when the sprite has a lit pixel on the display that was off before the first (log entry 25). -/
def Obligations.DrawingTwiceRestoresTheScreen : Prop :=
  ∀ (x y : Reg) (n : Fin 16) (s : State), ∃ t, exec (.drwVxVyN x y n) s = .next t ∧
    ((t.reg x).toNat % 64 = (s.reg x).toNat % 64 → (t.reg y).toNat % 32 = (s.reg y).toNat % 32 →
      ∃ u, exec (.drwVxVyN x y n) t = .next u ∧ u.fb = s.fb ∧
        (u.reg 15 = 1 ↔ ∃ X Y, onDisplay X Y ∧ s.pixel X Y = false ∧
          spriteAt s ((s.reg x).toNat % 64) ((s.reg y).toNat % 32) n.val X Y))

/-- Fx29 points at a glyph: while RAM holds the font, the five bytes from `I` on are the rows of the glyph of the low
nibble, top row first (R46, R122; the font's bytes are log entry 4's). -/
def Obligations.GlyphAddressHoldsTheGlyph : Prop :=
  ∀ (x : Reg) (s : State), (∀ a : Addr, 0x050 ≤ a.toNat → a.toNat ≤ 0x09F → s.memRead a = State.reset.memRead a) →
    ∃ t, exec (.ldFVx x) s = .next t ∧
      ∀ r < 5, t.memRead (t.ea r) = font.getD (5 * ((s.reg x).toNat % 16) + r) 0

/-! ### Keypad and timers -/

/-- R146, R147: the key number is the low nibble of `V[x]` (the spec's decision D6, log entry 10). -/
def Obligations.SkipsOnAKey : Prop :=
  ∀ (x : Reg) (s : State) (k : Fin 16), k.val = (s.reg x).toNat &&& 0x0F →
    (decode (word (0xE09E + 0x100 * x.val)) = .instr (.skpVx x) ∧
      ∃ t, exec (.skpVx x) s = .next t ∧ Completed t (s.pc + if s.keyDown k then 4 else 2) ∧
        ChangesOnly noReg plain noByte s t) ∧
    (decode (word (0xE0A1 + 0x100 * x.val)) = .instr (.sknpVx x) ∧
      ∃ t, exec (.sknpVx x) s = .next t ∧ Completed t (s.pc + if s.keyDown k then 2 else 4) ∧
        ChangesOnly noReg plain noByte s t)

/-- R148: the lowest key that is down goes to `V[x]`; with none down the step returns `WaitingForKey` and writes
nothing. -/
def Obligations.KeyWaitTakesTheLowestKey : Prop :=
  ∀ (x : Reg) (s : State), decode (word (0xF00A + 0x100 * x.val)) = .instr (.ldVxK x) ∧
    (∀ k : Fin 16, s.keyDown k = true → (∀ j < k, s.keyDown j = false) →
      ∃ t, exec (.ldVxK x) s = .next t ∧ (t.reg x).toNat = k.val ∧ Completed t (s.pc + 2) ∧
        ChangesOnly (only x) plain noByte s t) ∧
    ((∀ k, s.keyDown k = false) → exec (.ldVxK x) s = .next { s with result := some .waitingForKey })

/-- R149 -/
def Obligations.ReadDelayTimer : Prop :=
  ∀ (x : Reg) (s : State), decode (word (0xF007 + 0x100 * x.val)) = .instr (.ldVxDt x) ∧
    ∃ t, exec (.ldVxDt x) s = .next t ∧ t.reg x = s.dt ∧ Completed t (s.pc + 2) ∧
      ChangesOnly (only x) plain noByte s t

/-- R150, R151: writing the timers; the beep output follows `ST` at once. -/
def Obligations.WriteTimers : Prop :=
  ∀ (x : Reg) (s : State),
    (decode (word (0xF015 + 0x100 * x.val)) = .instr (.ldDtVx x) ∧
      ∃ t, exec (.ldDtVx x) s = .next t ∧ t.dt = s.reg x ∧ Completed t (s.pc + 2) ∧
        ChangesOnly noReg (.dt :: plain) noByte s t) ∧
    (decode (word (0xF018 + 0x100 * x.val)) = .instr (.ldStVx x) ∧
      ∃ t, exec (.ldStVx x) s = .next t ∧ t.st = s.reg x ∧ (t.beep = true ↔ s.reg x ≠ 0) ∧
        Completed t (s.pc + 2) ∧ ChangesOnly noReg (.st :: plain) noByte s t)

/-! ### Rules of the whole machine -/

/-- R12: a VF-writer leaves 0 or 1 in VF; every other instruction leaves VF unchanged, unless VF is its ordinary
destination. -/
def Obligations.OnlyFlagWritersTouchVF : Prop :=
  ∀ (i : Instr) (s t : State), exec i s = .next t →
    (writesFlag i → t.reg 15 = 0 ∨ t.reg 15 = 1) ∧ (¬ writesFlag i → ¬ destIsVF i → t.reg 15 = s.reg 15)

/-- R15: how each instruction changes `PC` when it completes, and that it does not when it waits or faults. That the sum
of Bnnn is not reduced is the spec's decision D1 (log entry 7), and that the key number of Ex9E and ExA1 is a low nibble
is its decision D6 (log entry 10). -/
def Obligations.EveryInstructionChangesPCByTheTable : Prop :=
  ∀ (i : Instr) (s t : State), exec i s = .next t →
    (t.result = some .ok → ∀ a, (∀ k : Fin 16, s.sp.val = k.val + 1 → a = s.stack[k]) → t.pc = newPC i s a) ∧
    (t.result ≠ some .ok → t.pc = s.pc) ∧
    (t.result = some .waitingForKey → ∃ x, i = .ldVxK x)

/-- The frame of every instruction at once: nothing changes but what its rule writes. In particular `I` is written
only by Annn, Fx1E and Fx29, the framebuffer only by CLS and DRW, RAM only by Fx33 and Fx55 at `EA(0)`, `EA(1)`, …,
the keypad by no instruction, and the RNG port is drawn from by Cxkk alone. That `EA` wraps is the spec's decision D3
(log entry 6), and the form of the RNG port is the model's (log entry 3). -/
def Obligations.EveryInstructionWritesOnlyWhatItsRuleNames : Prop :=
  ∀ (i : Instr) (s t : State), exec i s = .next t →
    ChangesOnly (writesReg i) (writesItem i) (bytesAtI s (storesAtI i)) s t

/-- No instruction reads `ST` or `DRAW`: changing them changes nothing else that any instruction does. -/
def Obligations.NoInstructionReadsSoundTimerOrDrawFlag : Prop :=
  ∀ (i : Instr) (s : State) (b : Byte) (d : Bool), ∃ t u, exec i s = .next t ∧
    exec i { s with st := b, draw := d } = .next u ∧ { u with st := t.st, draw := t.draw } = t

/-- No instruction reads the keypad but Ex9E, ExA1 and Fx0A, nor the delay timer but Fx07, nor the framebuffer
but Dxyn: changing what an instruction does not read changes nothing else that it does. -/
def Obligations.InstructionsReadOnlyTheirDevices : Prop :=
  ∀ (i : Instr) (s : State) (keys : Vector Bool 16) (dt : Byte) (fb : FrameBuffer),
    ((∀ x, i ≠ .skpVx x ∧ i ≠ .sknpVx x ∧ i ≠ .ldVxK x) →
      ∃ t u, exec i s = .next t ∧ exec i { s with keys := keys } = .next u ∧ { u with keys := t.keys } = t) ∧
    ((∀ x, i ≠ .ldVxDt x) →
      ∃ t u, exec i s = .next t ∧ exec i { s with dt := dt } = .next u ∧ { u with dt := t.dt } = t) ∧
    ((∀ x y n, i ≠ .drwVxVyN x y n) →
      ∃ t u, exec i s = .next t ∧ exec i { s with fb := fb } = .next u ∧ { u with fb := t.fb } = t)
end

