-- ==== Sys2Proof/Laws/Decode.lean ====
section
/-! SUPPORT. The fields of a word as arithmetic on its number (30_encoding.md rule R62), the numbers of encoded
words (R61), and the fields of encoded words. -/

namespace Sys2Proof

/-! ### Fields as arithmetic -/

theorem majorOf_toNat (op : Word16) : (majorOf op).toNat = op.toNat / 0x1000 := by
  have := op.isLt
  simp [majorOf, Nat.shiftRight_eq_div_pow]
  omega

theorem fieldX_val (op : Word16) : (fieldX op).val = op.toNat / 0x100 % 0x10 := by
  simp [fieldX, Nat.shiftRight_eq_div_pow]

theorem fieldY_val (op : Word16) : (fieldY op).val = op.toNat / 0x10 % 0x10 := by
  simp [fieldY, Nat.shiftRight_eq_div_pow]

theorem minorOf_toNat (op : Word16) : (minorOf op).toNat = op.toNat % 0x10 := by
  simp [minorOf]

theorem fieldN_val (op : Word16) : (fieldN op).val = op.toNat % 0x10 := by
  simp [fieldN, minorOf]

theorem fieldKk_toNat (op : Word16) : (fieldKk op).toNat = op.toNat % 0x100 := by
  simp [fieldKk]

theorem fieldNnn_toNat (op : Word16) : (fieldNnn op).toNat = op.toNat % 0x1000 := by
  simp [fieldNnn]

/-! ### Encoded words as numbers -/

variable (m n : BitVec 4) (x y : Reg) (kk : Byte) (nnn : Addr)

theorem append_toNat {v w : Nat} (a : BitVec v) (b : BitVec w) :
    (a ++ b).toNat = a.toNat * 2 ^ w + b.toNat := by
  rw [BitVec.toNat_append, ← Nat.shiftLeft_add_eq_or_of_lt b.isLt, Nat.shiftLeft_eq]

theorem encNNN_toNat : (encNNN m nnn).toNat = m.toNat * 0x1000 + nnn.toNat :=
  append_toNat m nnn

theorem encXKK_toNat : (encXKK m x kk).toNat = m.toNat * 0x1000 + x.val * 0x100 + kk.toNat := by
  have h := append_toNat (m ++ (BitVec.ofFin x : BitVec 4)) kk
  have h1 := append_toNat m (BitVec.ofFin x : BitVec 4)
  have e : (encXKK m x kk).toNat = (m ++ (BitVec.ofFin x : BitVec 4) ++ kk).toNat := rfl
  have hx : (BitVec.ofFin x : BitVec 4).toNat = x.val := rfl
  omega

theorem encXYN_toNat :
    (encXYN m x y n).toNat = m.toNat * 0x1000 + x.val * 0x100 + y.val * 0x10 + n.toNat := by
  have h := append_toNat (m ++ (BitVec.ofFin x : BitVec 4) ++ (BitVec.ofFin y : BitVec 4)) n
  have h1 := append_toNat (m ++ (BitVec.ofFin x : BitVec 4)) (BitVec.ofFin y : BitVec 4)
  have h2 := append_toNat m (BitVec.ofFin x : BitVec 4)
  have e : (encXYN m x y n).toNat =
    (m ++ (BitVec.ofFin x : BitVec 4) ++ (BitVec.ofFin y : BitVec 4) ++ n).toNat := rfl
  have hx : (BitVec.ofFin x : BitVec 4).toNat = x.val := rfl
  have hy : (BitVec.ofFin y : BitVec 4).toNat = y.val := rfl
  omega

/-- An encoded word is the 16-bit word of its number, the form in which statements write words. -/
theorem encNNN_eq_ofNat : encNNN m nnn = BitVec.ofNat 16 (m.toNat * 0x1000 + nnn.toNat) := by
  rw [← encNNN_toNat, BitVec.ofNat_toNat]; rfl

theorem encXKK_eq_ofNat :
    encXKK m x kk = BitVec.ofNat 16 (m.toNat * 0x1000 + x.val * 0x100 + kk.toNat) := by
  rw [← encXKK_toNat, BitVec.ofNat_toNat]; rfl

theorem encXYN_eq_ofNat :
    encXYN m x y n = BitVec.ofNat 16 (m.toNat * 0x1000 + x.val * 0x100 + y.val * 0x10 + n.toNat) := by
  rw [← encXYN_toNat, BitVec.ofNat_toNat]; rfl

/-! ### Fields of encoded words -/

@[simp] theorem majorOf_encNNN : majorOf (encNNN m nnn) = m := by
  apply BitVec.eq_of_toNat_eq
  rw [majorOf_toNat, encNNN_toNat]
  omega

@[simp] theorem fieldNnn_encNNN : fieldNnn (encNNN m nnn) = nnn := by
  apply BitVec.eq_of_toNat_eq
  rw [fieldNnn_toNat, encNNN_toNat]
  omega

@[simp] theorem majorOf_encXKK : majorOf (encXKK m x kk) = m := by
  apply BitVec.eq_of_toNat_eq
  rw [majorOf_toNat, encXKK_toNat]
  omega

@[simp] theorem fieldX_encXKK : fieldX (encXKK m x kk) = x := by
  apply Fin.ext
  rw [fieldX_val, encXKK_toNat]
  omega

@[simp] theorem fieldKk_encXKK : fieldKk (encXKK m x kk) = kk := by
  apply BitVec.eq_of_toNat_eq
  rw [fieldKk_toNat, encXKK_toNat]
  omega

@[simp] theorem majorOf_encXYN : majorOf (encXYN m x y n) = m := by
  apply BitVec.eq_of_toNat_eq
  rw [majorOf_toNat, encXYN_toNat]
  omega

@[simp] theorem fieldX_encXYN : fieldX (encXYN m x y n) = x := by
  apply Fin.ext
  rw [fieldX_val, encXYN_toNat]
  omega

@[simp] theorem fieldY_encXYN : fieldY (encXYN m x y n) = y := by
  apply Fin.ext
  rw [fieldY_val, encXYN_toNat]
  omega

@[simp] theorem minorOf_encXYN : minorOf (encXYN m x y n) = n := by
  apply BitVec.eq_of_toNat_eq
  rw [minorOf_toNat, encXYN_toNat]
  omega

/-! ### Decoding by major opcode (R64) -/

/-- The 16 values of a nibble: split a proof about `decode op` by `nibble_cases (majorOf op)`. -/
theorem nibble_cases : ∀ m : BitVec 4, m = 0 ∨ m = 1 ∨ m = 2 ∨ m = 3 ∨ m = 4 ∨ m = 5 ∨ m = 6 ∨ m = 7 ∨
    m = 8 ∨ m = 9 ∨ m = 0xA ∨ m = 0xB ∨ m = 0xC ∨ m = 0xD ∨ m = 0xE ∨ m = 0xF := by decide

variable {op : Word16}

theorem decode_major0 (h : majorOf op = 0x0) : decode op = decode0 op := by simp [decode, h]
theorem decode_major1 (h : majorOf op = 0x1) : decode op = .instr (.jp (fieldNnn op)) := by simp [decode, h]
theorem decode_major2 (h : majorOf op = 0x2) : decode op = .instr (.call (fieldNnn op)) := by simp [decode, h]
theorem decode_major3 (h : majorOf op = 0x3) : decode op = .instr (.seVxKk (fieldX op) (fieldKk op)) := by simp [decode, h]
theorem decode_major4 (h : majorOf op = 0x4) : decode op = .instr (.sneVxKk (fieldX op) (fieldKk op)) := by simp [decode, h]
theorem decode_major5 (h : majorOf op = 0x5) : decode op =
      if minorOf op = 0x0#4 then .instr (.seVxVy (fieldX op) (fieldY op)) else .illegal op := by
  simp [decode, h]
theorem decode_major6 (h : majorOf op = 0x6) : decode op = .instr (.ldVxKk (fieldX op) (fieldKk op)) := by simp [decode, h]
theorem decode_major7 (h : majorOf op = 0x7) : decode op = .instr (.addVxKk (fieldX op) (fieldKk op)) := by simp [decode, h]
theorem decode_major8 (h : majorOf op = 0x8) : decode op = decode8 op := by simp [decode, h]
theorem decode_major9 (h : majorOf op = 0x9) : decode op =
      if minorOf op = 0x0#4 then .instr (.sneVxVy (fieldX op) (fieldY op)) else .illegal op := by
  simp [decode, h]
theorem decode_majorA (h : majorOf op = 0xA) : decode op = .instr (.ldINnn (fieldNnn op)) := by simp [decode, h]
theorem decode_majorB (h : majorOf op = 0xB) : decode op = .instr (.jpV0Nnn (fieldNnn op)) := by simp [decode, h]
theorem decode_majorC (h : majorOf op = 0xC) : decode op = .instr (.rndVxKk (fieldX op) (fieldKk op)) := by simp [decode, h]
theorem decode_majorD (h : majorOf op = 0xD) : decode op = .instr (.drwVxVyN (fieldX op) (fieldY op) (fieldN op)) := by simp [decode, h]
theorem decode_majorE (h : majorOf op = 0xE) : decode op = decodeE op := by simp [decode, h]
theorem decode_majorF (h : majorOf op = 0xF) : decode op = decodeF op := by simp [decode, h]

/-! ### A word is its fields (R61) -/

theorem encNNN_fields (op : Word16) : encNNN (majorOf op) (fieldNnn op) = op := by
  apply BitVec.eq_of_toNat_eq
  rw [encNNN_toNat, majorOf_toNat, fieldNnn_toNat]
  omega

theorem encXKK_fields (op : Word16) : encXKK (majorOf op) (fieldX op) (fieldKk op) = op := by
  apply BitVec.eq_of_toNat_eq
  rw [encXKK_toNat, majorOf_toNat, fieldKk_toNat, fieldX_val]
  omega

theorem encXYN_fields (op : Word16) : encXYN (majorOf op) (fieldX op) (fieldY op) (minorOf op) = op := by
  apply BitVec.eq_of_toNat_eq
  rw [encXYN_toNat, majorOf_toNat, minorOf_toNat, fieldX_val, fieldY_val]
  omega

/-! ### Bytes in fetch order -/

theorem wordOfBytes_toNat (hi lo : Byte) : (wordOfBytes hi lo).toNat = hi.toNat * 0x100 + lo.toNat :=
  append_toNat hi lo

/-- The two bytes of a word, in fetch order, make the word again (R41). -/
theorem wordOfBytes_split (op : Word16) : wordOfBytes (op.extractLsb' 8 8) (op.extractLsb' 0 8) = op := by
  apply BitVec.eq_of_toNat_eq
  have := op.isLt
  rw [wordOfBytes_toNat]
  simp [Nat.shiftRight_eq_div_pow]
  omega

end Sys2Proof
end

