-- ==== Sys2Proof/Laws/State.lean ====
section
/-! SUPPORT. One lemma per field per update of the state, so that no later proof unfolds a record update; and the
register file's read-after-write laws. -/

namespace Sys2Proof.Machine

/-! ### `State.setReg` -/

@[simp] theorem State.setReg_ram (s : State) (x : Reg) (b : Byte) : (s.setReg x b).ram = s.ram := rfl
@[simp] theorem State.setReg_i (s : State) (x : Reg) (b : Byte) : (s.setReg x b).i = s.i := rfl
@[simp] theorem State.setReg_pc (s : State) (x : Reg) (b : Byte) : (s.setReg x b).pc = s.pc := rfl
@[simp] theorem State.setReg_stack (s : State) (x : Reg) (b : Byte) : (s.setReg x b).stack = s.stack := rfl
@[simp] theorem State.setReg_sp (s : State) (x : Reg) (b : Byte) : (s.setReg x b).sp = s.sp := rfl
@[simp] theorem State.setReg_fb (s : State) (x : Reg) (b : Byte) : (s.setReg x b).fb = s.fb := rfl
@[simp] theorem State.setReg_keys (s : State) (x : Reg) (b : Byte) : (s.setReg x b).keys = s.keys := rfl
@[simp] theorem State.setReg_dt (s : State) (x : Reg) (b : Byte) : (s.setReg x b).dt = s.dt := rfl
@[simp] theorem State.setReg_st (s : State) (x : Reg) (b : Byte) : (s.setReg x b).st = s.st := rfl
@[simp] theorem State.setReg_draw (s : State) (x : Reg) (b : Byte) : (s.setReg x b).draw = s.draw := rfl
@[simp] theorem State.setReg_fault (s : State) (x : Reg) (b : Byte) : (s.setReg x b).fault = s.fault := rfl
@[simp] theorem State.setReg_result (s : State) (x : Reg) (b : Byte) : (s.setReg x b).result = s.result := rfl
@[simp] theorem State.setReg_pending (s : State) (x : Reg) (b : Byte) : (s.setReg x b).pending = s.pending := rfl
@[simp] theorem State.setReg_rngFeed (s : State) (x : Reg) (b : Byte) : (s.setReg x b).rngFeed = s.rngFeed := rfl
@[simp] theorem State.setReg_rngDraws (s : State) (x : Reg) (b : Byte) : (s.setReg x b).rngDraws = s.rngDraws := rfl

/-! ### `State.setFlag` -/

@[simp] theorem State.setFlag_ram (s : State) (f : Bool) : (s.setFlag f).ram = s.ram := rfl
@[simp] theorem State.setFlag_i (s : State) (f : Bool) : (s.setFlag f).i = s.i := rfl
@[simp] theorem State.setFlag_pc (s : State) (f : Bool) : (s.setFlag f).pc = s.pc := rfl
@[simp] theorem State.setFlag_stack (s : State) (f : Bool) : (s.setFlag f).stack = s.stack := rfl
@[simp] theorem State.setFlag_sp (s : State) (f : Bool) : (s.setFlag f).sp = s.sp := rfl
@[simp] theorem State.setFlag_fb (s : State) (f : Bool) : (s.setFlag f).fb = s.fb := rfl
@[simp] theorem State.setFlag_keys (s : State) (f : Bool) : (s.setFlag f).keys = s.keys := rfl
@[simp] theorem State.setFlag_dt (s : State) (f : Bool) : (s.setFlag f).dt = s.dt := rfl
@[simp] theorem State.setFlag_st (s : State) (f : Bool) : (s.setFlag f).st = s.st := rfl
@[simp] theorem State.setFlag_draw (s : State) (f : Bool) : (s.setFlag f).draw = s.draw := rfl
@[simp] theorem State.setFlag_fault (s : State) (f : Bool) : (s.setFlag f).fault = s.fault := rfl
@[simp] theorem State.setFlag_result (s : State) (f : Bool) : (s.setFlag f).result = s.result := rfl
@[simp] theorem State.setFlag_pending (s : State) (f : Bool) : (s.setFlag f).pending = s.pending := rfl
@[simp] theorem State.setFlag_rngFeed (s : State) (f : Bool) : (s.setFlag f).rngFeed = s.rngFeed := rfl
@[simp] theorem State.setFlag_rngDraws (s : State) (f : Bool) : (s.setFlag f).rngDraws = s.rngDraws := rfl

/-! ### `State.setRegFlag` -/

@[simp] theorem State.setRegFlag_ram (s : State) (x : Reg) (r : Byte) (f : Bool) : (s.setRegFlag x r f).ram = s.ram := rfl
@[simp] theorem State.setRegFlag_i (s : State) (x : Reg) (r : Byte) (f : Bool) : (s.setRegFlag x r f).i = s.i := rfl
@[simp] theorem State.setRegFlag_pc (s : State) (x : Reg) (r : Byte) (f : Bool) : (s.setRegFlag x r f).pc = s.pc := rfl
@[simp] theorem State.setRegFlag_stack (s : State) (x : Reg) (r : Byte) (f : Bool) : (s.setRegFlag x r f).stack = s.stack := rfl
@[simp] theorem State.setRegFlag_sp (s : State) (x : Reg) (r : Byte) (f : Bool) : (s.setRegFlag x r f).sp = s.sp := rfl
@[simp] theorem State.setRegFlag_fb (s : State) (x : Reg) (r : Byte) (f : Bool) : (s.setRegFlag x r f).fb = s.fb := rfl
@[simp] theorem State.setRegFlag_keys (s : State) (x : Reg) (r : Byte) (f : Bool) : (s.setRegFlag x r f).keys = s.keys := rfl
@[simp] theorem State.setRegFlag_dt (s : State) (x : Reg) (r : Byte) (f : Bool) : (s.setRegFlag x r f).dt = s.dt := rfl
@[simp] theorem State.setRegFlag_st (s : State) (x : Reg) (r : Byte) (f : Bool) : (s.setRegFlag x r f).st = s.st := rfl
@[simp] theorem State.setRegFlag_draw (s : State) (x : Reg) (r : Byte) (f : Bool) : (s.setRegFlag x r f).draw = s.draw := rfl
@[simp] theorem State.setRegFlag_fault (s : State) (x : Reg) (r : Byte) (f : Bool) : (s.setRegFlag x r f).fault = s.fault := rfl
@[simp] theorem State.setRegFlag_result (s : State) (x : Reg) (r : Byte) (f : Bool) : (s.setRegFlag x r f).result = s.result := rfl
@[simp] theorem State.setRegFlag_pending (s : State) (x : Reg) (r : Byte) (f : Bool) : (s.setRegFlag x r f).pending = s.pending := rfl
@[simp] theorem State.setRegFlag_rngFeed (s : State) (x : Reg) (r : Byte) (f : Bool) : (s.setRegFlag x r f).rngFeed = s.rngFeed := rfl
@[simp] theorem State.setRegFlag_rngDraws (s : State) (x : Reg) (r : Byte) (f : Bool) : (s.setRegFlag x r f).rngDraws = s.rngDraws := rfl

/-! ### `State.storeBytes` -/

@[simp] theorem State.storeBytes_v (s : State) (bs : List Byte) : (s.storeBytes bs).v = s.v := rfl
@[simp] theorem State.storeBytes_i (s : State) (bs : List Byte) : (s.storeBytes bs).i = s.i := rfl
@[simp] theorem State.storeBytes_pc (s : State) (bs : List Byte) : (s.storeBytes bs).pc = s.pc := rfl
@[simp] theorem State.storeBytes_stack (s : State) (bs : List Byte) : (s.storeBytes bs).stack = s.stack := rfl
@[simp] theorem State.storeBytes_sp (s : State) (bs : List Byte) : (s.storeBytes bs).sp = s.sp := rfl
@[simp] theorem State.storeBytes_fb (s : State) (bs : List Byte) : (s.storeBytes bs).fb = s.fb := rfl
@[simp] theorem State.storeBytes_keys (s : State) (bs : List Byte) : (s.storeBytes bs).keys = s.keys := rfl
@[simp] theorem State.storeBytes_dt (s : State) (bs : List Byte) : (s.storeBytes bs).dt = s.dt := rfl
@[simp] theorem State.storeBytes_st (s : State) (bs : List Byte) : (s.storeBytes bs).st = s.st := rfl
@[simp] theorem State.storeBytes_draw (s : State) (bs : List Byte) : (s.storeBytes bs).draw = s.draw := rfl
@[simp] theorem State.storeBytes_fault (s : State) (bs : List Byte) : (s.storeBytes bs).fault = s.fault := rfl
@[simp] theorem State.storeBytes_result (s : State) (bs : List Byte) : (s.storeBytes bs).result = s.result := rfl
@[simp] theorem State.storeBytes_pending (s : State) (bs : List Byte) : (s.storeBytes bs).pending = s.pending := rfl
@[simp] theorem State.storeBytes_rngFeed (s : State) (bs : List Byte) : (s.storeBytes bs).rngFeed = s.rngFeed := rfl
@[simp] theorem State.storeBytes_rngDraws (s : State) (bs : List Byte) : (s.storeBytes bs).rngDraws = s.rngDraws := rfl

/-! ### `State.loadRegs` -/

@[simp] theorem State.loadRegs_ram (s : State) (x : Reg) : (s.loadRegs x).ram = s.ram := rfl
@[simp] theorem State.loadRegs_i (s : State) (x : Reg) : (s.loadRegs x).i = s.i := rfl
@[simp] theorem State.loadRegs_pc (s : State) (x : Reg) : (s.loadRegs x).pc = s.pc := rfl
@[simp] theorem State.loadRegs_stack (s : State) (x : Reg) : (s.loadRegs x).stack = s.stack := rfl
@[simp] theorem State.loadRegs_sp (s : State) (x : Reg) : (s.loadRegs x).sp = s.sp := rfl
@[simp] theorem State.loadRegs_fb (s : State) (x : Reg) : (s.loadRegs x).fb = s.fb := rfl
@[simp] theorem State.loadRegs_keys (s : State) (x : Reg) : (s.loadRegs x).keys = s.keys := rfl
@[simp] theorem State.loadRegs_dt (s : State) (x : Reg) : (s.loadRegs x).dt = s.dt := rfl
@[simp] theorem State.loadRegs_st (s : State) (x : Reg) : (s.loadRegs x).st = s.st := rfl
@[simp] theorem State.loadRegs_draw (s : State) (x : Reg) : (s.loadRegs x).draw = s.draw := rfl
@[simp] theorem State.loadRegs_fault (s : State) (x : Reg) : (s.loadRegs x).fault = s.fault := rfl
@[simp] theorem State.loadRegs_result (s : State) (x : Reg) : (s.loadRegs x).result = s.result := rfl
@[simp] theorem State.loadRegs_pending (s : State) (x : Reg) : (s.loadRegs x).pending = s.pending := rfl
@[simp] theorem State.loadRegs_rngFeed (s : State) (x : Reg) : (s.loadRegs x).rngFeed = s.rngFeed := rfl
@[simp] theorem State.loadRegs_rngDraws (s : State) (x : Reg) : (s.loadRegs x).rngDraws = s.rngDraws := rfl

/-! ### `State.tickTimers` -/

@[simp] theorem State.tickTimers_ram (s : State) : (s.tickTimers).ram = s.ram := rfl
@[simp] theorem State.tickTimers_v (s : State) : (s.tickTimers).v = s.v := rfl
@[simp] theorem State.tickTimers_i (s : State) : (s.tickTimers).i = s.i := rfl
@[simp] theorem State.tickTimers_pc (s : State) : (s.tickTimers).pc = s.pc := rfl
@[simp] theorem State.tickTimers_stack (s : State) : (s.tickTimers).stack = s.stack := rfl
@[simp] theorem State.tickTimers_sp (s : State) : (s.tickTimers).sp = s.sp := rfl
@[simp] theorem State.tickTimers_fb (s : State) : (s.tickTimers).fb = s.fb := rfl
@[simp] theorem State.tickTimers_keys (s : State) : (s.tickTimers).keys = s.keys := rfl
@[simp] theorem State.tickTimers_draw (s : State) : (s.tickTimers).draw = s.draw := rfl
@[simp] theorem State.tickTimers_fault (s : State) : (s.tickTimers).fault = s.fault := rfl
@[simp] theorem State.tickTimers_result (s : State) : (s.tickTimers).result = s.result := rfl
@[simp] theorem State.tickTimers_pending (s : State) : (s.tickTimers).pending = s.pending := rfl
@[simp] theorem State.tickTimers_rngFeed (s : State) : (s.tickTimers).rngFeed = s.rngFeed := rfl
@[simp] theorem State.tickTimers_rngDraws (s : State) : (s.tickTimers).rngDraws = s.rngDraws := rfl

/-! ### `State.setKey` -/

@[simp] theorem State.setKey_ram (s : State) (k : Fin 16) (down : Bool) : (s.setKey k down).ram = s.ram := rfl
@[simp] theorem State.setKey_v (s : State) (k : Fin 16) (down : Bool) : (s.setKey k down).v = s.v := rfl
@[simp] theorem State.setKey_i (s : State) (k : Fin 16) (down : Bool) : (s.setKey k down).i = s.i := rfl
@[simp] theorem State.setKey_pc (s : State) (k : Fin 16) (down : Bool) : (s.setKey k down).pc = s.pc := rfl
@[simp] theorem State.setKey_stack (s : State) (k : Fin 16) (down : Bool) : (s.setKey k down).stack = s.stack := rfl
@[simp] theorem State.setKey_sp (s : State) (k : Fin 16) (down : Bool) : (s.setKey k down).sp = s.sp := rfl
@[simp] theorem State.setKey_fb (s : State) (k : Fin 16) (down : Bool) : (s.setKey k down).fb = s.fb := rfl
@[simp] theorem State.setKey_dt (s : State) (k : Fin 16) (down : Bool) : (s.setKey k down).dt = s.dt := rfl
@[simp] theorem State.setKey_st (s : State) (k : Fin 16) (down : Bool) : (s.setKey k down).st = s.st := rfl
@[simp] theorem State.setKey_draw (s : State) (k : Fin 16) (down : Bool) : (s.setKey k down).draw = s.draw := rfl
@[simp] theorem State.setKey_fault (s : State) (k : Fin 16) (down : Bool) : (s.setKey k down).fault = s.fault := rfl
@[simp] theorem State.setKey_result (s : State) (k : Fin 16) (down : Bool) : (s.setKey k down).result = s.result := rfl
@[simp] theorem State.setKey_pending (s : State) (k : Fin 16) (down : Bool) : (s.setKey k down).pending = s.pending := rfl
@[simp] theorem State.setKey_rngFeed (s : State) (k : Fin 16) (down : Bool) : (s.setKey k down).rngFeed = s.rngFeed := rfl
@[simp] theorem State.setKey_rngDraws (s : State) (k : Fin 16) (down : Bool) : (s.setKey k down).rngDraws = s.rngDraws := rfl

/-! ### `State.presentAck` -/

@[simp] theorem State.presentAck_ram (s : State) : (s.presentAck).ram = s.ram := rfl
@[simp] theorem State.presentAck_v (s : State) : (s.presentAck).v = s.v := rfl
@[simp] theorem State.presentAck_i (s : State) : (s.presentAck).i = s.i := rfl
@[simp] theorem State.presentAck_pc (s : State) : (s.presentAck).pc = s.pc := rfl
@[simp] theorem State.presentAck_stack (s : State) : (s.presentAck).stack = s.stack := rfl
@[simp] theorem State.presentAck_sp (s : State) : (s.presentAck).sp = s.sp := rfl
@[simp] theorem State.presentAck_fb (s : State) : (s.presentAck).fb = s.fb := rfl
@[simp] theorem State.presentAck_keys (s : State) : (s.presentAck).keys = s.keys := rfl
@[simp] theorem State.presentAck_dt (s : State) : (s.presentAck).dt = s.dt := rfl
@[simp] theorem State.presentAck_st (s : State) : (s.presentAck).st = s.st := rfl
@[simp] theorem State.presentAck_fault (s : State) : (s.presentAck).fault = s.fault := rfl
@[simp] theorem State.presentAck_result (s : State) : (s.presentAck).result = s.result := rfl
@[simp] theorem State.presentAck_pending (s : State) : (s.presentAck).pending = s.pending := rfl
@[simp] theorem State.presentAck_rngFeed (s : State) : (s.presentAck).rngFeed = s.rngFeed := rfl
@[simp] theorem State.presentAck_rngDraws (s : State) : (s.presentAck).rngDraws = s.rngDraws := rfl

/-! ### `State.reportReadFailure` -/

@[simp] theorem State.reportReadFailure_ram (s : State) : (s.reportReadFailure).ram = s.ram := rfl
@[simp] theorem State.reportReadFailure_v (s : State) : (s.reportReadFailure).v = s.v := rfl
@[simp] theorem State.reportReadFailure_i (s : State) : (s.reportReadFailure).i = s.i := rfl
@[simp] theorem State.reportReadFailure_pc (s : State) : (s.reportReadFailure).pc = s.pc := rfl
@[simp] theorem State.reportReadFailure_stack (s : State) : (s.reportReadFailure).stack = s.stack := rfl
@[simp] theorem State.reportReadFailure_sp (s : State) : (s.reportReadFailure).sp = s.sp := rfl
@[simp] theorem State.reportReadFailure_fb (s : State) : (s.reportReadFailure).fb = s.fb := rfl
@[simp] theorem State.reportReadFailure_keys (s : State) : (s.reportReadFailure).keys = s.keys := rfl
@[simp] theorem State.reportReadFailure_dt (s : State) : (s.reportReadFailure).dt = s.dt := rfl
@[simp] theorem State.reportReadFailure_st (s : State) : (s.reportReadFailure).st = s.st := rfl
@[simp] theorem State.reportReadFailure_draw (s : State) : (s.reportReadFailure).draw = s.draw := rfl
@[simp] theorem State.reportReadFailure_fault (s : State) : (s.reportReadFailure).fault = s.fault := rfl
@[simp] theorem State.reportReadFailure_pending (s : State) : (s.reportReadFailure).pending = s.pending := rfl
@[simp] theorem State.reportReadFailure_rngFeed (s : State) : (s.reportReadFailure).rngFeed = s.rngFeed := rfl
@[simp] theorem State.reportReadFailure_rngDraws (s : State) : (s.reportReadFailure).rngDraws = s.rngDraws := rfl

/-! ### `State.setI` -/

@[simp] theorem State.setI_ram (s : State) (w : Word16) : (s.setI w).ram = s.ram := rfl
@[simp] theorem State.setI_v (s : State) (w : Word16) : (s.setI w).v = s.v := rfl
@[simp] theorem State.setI_i (s : State) (w : Word16) : (s.setI w).i = w := rfl
@[simp] theorem State.setI_pc (s : State) (w : Word16) : (s.setI w).pc = s.pc := rfl
@[simp] theorem State.setI_stack (s : State) (w : Word16) : (s.setI w).stack = s.stack := rfl
@[simp] theorem State.setI_sp (s : State) (w : Word16) : (s.setI w).sp = s.sp := rfl
@[simp] theorem State.setI_fb (s : State) (w : Word16) : (s.setI w).fb = s.fb := rfl
@[simp] theorem State.setI_keys (s : State) (w : Word16) : (s.setI w).keys = s.keys := rfl
@[simp] theorem State.setI_dt (s : State) (w : Word16) : (s.setI w).dt = s.dt := rfl
@[simp] theorem State.setI_st (s : State) (w : Word16) : (s.setI w).st = s.st := rfl
@[simp] theorem State.setI_draw (s : State) (w : Word16) : (s.setI w).draw = s.draw := rfl
@[simp] theorem State.setI_fault (s : State) (w : Word16) : (s.setI w).fault = s.fault := rfl
@[simp] theorem State.setI_result (s : State) (w : Word16) : (s.setI w).result = s.result := rfl
@[simp] theorem State.setI_pending (s : State) (w : Word16) : (s.setI w).pending = s.pending := rfl
@[simp] theorem State.setI_rngFeed (s : State) (w : Word16) : (s.setI w).rngFeed = s.rngFeed := rfl
@[simp] theorem State.setI_rngDraws (s : State) (w : Word16) : (s.setI w).rngDraws = s.rngDraws := rfl

/-! ### `State.setDt` -/

@[simp] theorem State.setDt_ram (s : State) (b : Byte) : (s.setDt b).ram = s.ram := rfl
@[simp] theorem State.setDt_v (s : State) (b : Byte) : (s.setDt b).v = s.v := rfl
@[simp] theorem State.setDt_i (s : State) (b : Byte) : (s.setDt b).i = s.i := rfl
@[simp] theorem State.setDt_pc (s : State) (b : Byte) : (s.setDt b).pc = s.pc := rfl
@[simp] theorem State.setDt_stack (s : State) (b : Byte) : (s.setDt b).stack = s.stack := rfl
@[simp] theorem State.setDt_sp (s : State) (b : Byte) : (s.setDt b).sp = s.sp := rfl
@[simp] theorem State.setDt_fb (s : State) (b : Byte) : (s.setDt b).fb = s.fb := rfl
@[simp] theorem State.setDt_keys (s : State) (b : Byte) : (s.setDt b).keys = s.keys := rfl
@[simp] theorem State.setDt_dt (s : State) (b : Byte) : (s.setDt b).dt = b := rfl
@[simp] theorem State.setDt_st (s : State) (b : Byte) : (s.setDt b).st = s.st := rfl
@[simp] theorem State.setDt_draw (s : State) (b : Byte) : (s.setDt b).draw = s.draw := rfl
@[simp] theorem State.setDt_fault (s : State) (b : Byte) : (s.setDt b).fault = s.fault := rfl
@[simp] theorem State.setDt_result (s : State) (b : Byte) : (s.setDt b).result = s.result := rfl
@[simp] theorem State.setDt_pending (s : State) (b : Byte) : (s.setDt b).pending = s.pending := rfl
@[simp] theorem State.setDt_rngFeed (s : State) (b : Byte) : (s.setDt b).rngFeed = s.rngFeed := rfl
@[simp] theorem State.setDt_rngDraws (s : State) (b : Byte) : (s.setDt b).rngDraws = s.rngDraws := rfl

/-! ### `State.setSt` -/

@[simp] theorem State.setSt_ram (s : State) (b : Byte) : (s.setSt b).ram = s.ram := rfl
@[simp] theorem State.setSt_v (s : State) (b : Byte) : (s.setSt b).v = s.v := rfl
@[simp] theorem State.setSt_i (s : State) (b : Byte) : (s.setSt b).i = s.i := rfl
@[simp] theorem State.setSt_pc (s : State) (b : Byte) : (s.setSt b).pc = s.pc := rfl
@[simp] theorem State.setSt_stack (s : State) (b : Byte) : (s.setSt b).stack = s.stack := rfl
@[simp] theorem State.setSt_sp (s : State) (b : Byte) : (s.setSt b).sp = s.sp := rfl
@[simp] theorem State.setSt_fb (s : State) (b : Byte) : (s.setSt b).fb = s.fb := rfl
@[simp] theorem State.setSt_keys (s : State) (b : Byte) : (s.setSt b).keys = s.keys := rfl
@[simp] theorem State.setSt_dt (s : State) (b : Byte) : (s.setSt b).dt = s.dt := rfl
@[simp] theorem State.setSt_st (s : State) (b : Byte) : (s.setSt b).st = b := rfl
@[simp] theorem State.setSt_draw (s : State) (b : Byte) : (s.setSt b).draw = s.draw := rfl
@[simp] theorem State.setSt_fault (s : State) (b : Byte) : (s.setSt b).fault = s.fault := rfl
@[simp] theorem State.setSt_result (s : State) (b : Byte) : (s.setSt b).result = s.result := rfl
@[simp] theorem State.setSt_pending (s : State) (b : Byte) : (s.setSt b).pending = s.pending := rfl
@[simp] theorem State.setSt_rngFeed (s : State) (b : Byte) : (s.setSt b).rngFeed = s.rngFeed := rfl
@[simp] theorem State.setSt_rngDraws (s : State) (b : Byte) : (s.setSt b).rngDraws = s.rngDraws := rfl

/-! ### `State.setFb` -/

@[simp] theorem State.setFb_ram (s : State) (fb : FrameBuffer) : (s.setFb fb).ram = s.ram := rfl
@[simp] theorem State.setFb_v (s : State) (fb : FrameBuffer) : (s.setFb fb).v = s.v := rfl
@[simp] theorem State.setFb_i (s : State) (fb : FrameBuffer) : (s.setFb fb).i = s.i := rfl
@[simp] theorem State.setFb_pc (s : State) (fb : FrameBuffer) : (s.setFb fb).pc = s.pc := rfl
@[simp] theorem State.setFb_stack (s : State) (fb : FrameBuffer) : (s.setFb fb).stack = s.stack := rfl
@[simp] theorem State.setFb_sp (s : State) (fb : FrameBuffer) : (s.setFb fb).sp = s.sp := rfl
@[simp] theorem State.setFb_fb (s : State) (fb : FrameBuffer) : (s.setFb fb).fb = fb := rfl
@[simp] theorem State.setFb_keys (s : State) (fb : FrameBuffer) : (s.setFb fb).keys = s.keys := rfl
@[simp] theorem State.setFb_dt (s : State) (fb : FrameBuffer) : (s.setFb fb).dt = s.dt := rfl
@[simp] theorem State.setFb_st (s : State) (fb : FrameBuffer) : (s.setFb fb).st = s.st := rfl
@[simp] theorem State.setFb_draw (s : State) (fb : FrameBuffer) : (s.setFb fb).draw = true := rfl
@[simp] theorem State.setFb_fault (s : State) (fb : FrameBuffer) : (s.setFb fb).fault = s.fault := rfl
@[simp] theorem State.setFb_result (s : State) (fb : FrameBuffer) : (s.setFb fb).result = s.result := rfl
@[simp] theorem State.setFb_pending (s : State) (fb : FrameBuffer) : (s.setFb fb).pending = s.pending := rfl
@[simp] theorem State.setFb_rngFeed (s : State) (fb : FrameBuffer) : (s.setFb fb).rngFeed = s.rngFeed := rfl
@[simp] theorem State.setFb_rngDraws (s : State) (fb : FrameBuffer) : (s.setFb fb).rngDraws = s.rngDraws := rfl

/-! ### `State.ended` -/

@[simp] theorem State.ended_ram (s : State) (target : Word16) : (s.ended target).ram = s.ram := rfl
@[simp] theorem State.ended_v (s : State) (target : Word16) : (s.ended target).v = s.v := rfl
@[simp] theorem State.ended_i (s : State) (target : Word16) : (s.ended target).i = s.i := rfl
@[simp] theorem State.ended_pc (s : State) (target : Word16) : (s.ended target).pc = target := rfl
@[simp] theorem State.ended_stack (s : State) (target : Word16) : (s.ended target).stack = s.stack := rfl
@[simp] theorem State.ended_sp (s : State) (target : Word16) : (s.ended target).sp = s.sp := rfl
@[simp] theorem State.ended_fb (s : State) (target : Word16) : (s.ended target).fb = s.fb := rfl
@[simp] theorem State.ended_keys (s : State) (target : Word16) : (s.ended target).keys = s.keys := rfl
@[simp] theorem State.ended_dt (s : State) (target : Word16) : (s.ended target).dt = s.dt := rfl
@[simp] theorem State.ended_st (s : State) (target : Word16) : (s.ended target).st = s.st := rfl
@[simp] theorem State.ended_draw (s : State) (target : Word16) : (s.ended target).draw = s.draw := rfl
@[simp] theorem State.ended_fault (s : State) (target : Word16) : (s.ended target).fault = s.fault := rfl
@[simp] theorem State.ended_result (s : State) (target : Word16) : (s.ended target).result = some .ok := rfl
@[simp] theorem State.ended_pending (s : State) (target : Word16) : (s.ended target).pending = s.pending := rfl
@[simp] theorem State.ended_rngFeed (s : State) (target : Word16) : (s.ended target).rngFeed = s.rngFeed := rfl
@[simp] theorem State.ended_rngDraws (s : State) (target : Word16) : (s.ended target).rngDraws = s.rngDraws := rfl

/-! ### `State.answering` -/

@[simp] theorem State.answering_ram (s : State) (r : StepResult) : (s.answering r).ram = s.ram := rfl
@[simp] theorem State.answering_v (s : State) (r : StepResult) : (s.answering r).v = s.v := rfl
@[simp] theorem State.answering_i (s : State) (r : StepResult) : (s.answering r).i = s.i := rfl
@[simp] theorem State.answering_pc (s : State) (r : StepResult) : (s.answering r).pc = s.pc := rfl
@[simp] theorem State.answering_stack (s : State) (r : StepResult) : (s.answering r).stack = s.stack := rfl
@[simp] theorem State.answering_sp (s : State) (r : StepResult) : (s.answering r).sp = s.sp := rfl
@[simp] theorem State.answering_fb (s : State) (r : StepResult) : (s.answering r).fb = s.fb := rfl
@[simp] theorem State.answering_keys (s : State) (r : StepResult) : (s.answering r).keys = s.keys := rfl
@[simp] theorem State.answering_dt (s : State) (r : StepResult) : (s.answering r).dt = s.dt := rfl
@[simp] theorem State.answering_st (s : State) (r : StepResult) : (s.answering r).st = s.st := rfl
@[simp] theorem State.answering_draw (s : State) (r : StepResult) : (s.answering r).draw = s.draw := rfl
@[simp] theorem State.answering_fault (s : State) (r : StepResult) : (s.answering r).fault = s.fault := rfl
@[simp] theorem State.answering_result (s : State) (r : StepResult) : (s.answering r).result = some r := rfl
@[simp] theorem State.answering_pending (s : State) (r : StepResult) : (s.answering r).pending = s.pending := rfl
@[simp] theorem State.answering_rngFeed (s : State) (r : StepResult) : (s.answering r).rngFeed = s.rngFeed := rfl
@[simp] theorem State.answering_rngDraws (s : State) (r : StepResult) : (s.answering r).rngDraws = s.rngDraws := rfl

/-! ### `State.latched` -/

@[simp] theorem State.latched_ram (s : State) (k : FaultKind) : (s.latched k).ram = s.ram := rfl
@[simp] theorem State.latched_v (s : State) (k : FaultKind) : (s.latched k).v = s.v := rfl
@[simp] theorem State.latched_i (s : State) (k : FaultKind) : (s.latched k).i = s.i := rfl
@[simp] theorem State.latched_pc (s : State) (k : FaultKind) : (s.latched k).pc = s.pc := rfl
@[simp] theorem State.latched_stack (s : State) (k : FaultKind) : (s.latched k).stack = s.stack := rfl
@[simp] theorem State.latched_sp (s : State) (k : FaultKind) : (s.latched k).sp = s.sp := rfl
@[simp] theorem State.latched_fb (s : State) (k : FaultKind) : (s.latched k).fb = s.fb := rfl
@[simp] theorem State.latched_keys (s : State) (k : FaultKind) : (s.latched k).keys = s.keys := rfl
@[simp] theorem State.latched_dt (s : State) (k : FaultKind) : (s.latched k).dt = s.dt := rfl
@[simp] theorem State.latched_st (s : State) (k : FaultKind) : (s.latched k).st = s.st := rfl
@[simp] theorem State.latched_draw (s : State) (k : FaultKind) : (s.latched k).draw = s.draw := rfl
@[simp] theorem State.latched_fault (s : State) (k : FaultKind) : (s.latched k).fault = some k := rfl
@[simp] theorem State.latched_result (s : State) (k : FaultKind) : (s.latched k).result = some (.fault k) := rfl
@[simp] theorem State.latched_pending (s : State) (k : FaultKind) : (s.latched k).pending = s.pending := rfl
@[simp] theorem State.latched_rngFeed (s : State) (k : FaultKind) : (s.latched k).rngFeed = s.rngFeed := rfl
@[simp] theorem State.latched_rngDraws (s : State) (k : FaultKind) : (s.latched k).rngDraws = s.rngDraws := rfl

/-! ### `State.drawRnd` -/

@[simp] theorem State.drawRnd_ram (s : State) : s.drawRnd.ram = s.ram := by unfold State.drawRnd; split <;> rfl
@[simp] theorem State.drawRnd_v (s : State) : s.drawRnd.v = s.v := by unfold State.drawRnd; split <;> rfl
@[simp] theorem State.drawRnd_i (s : State) : s.drawRnd.i = s.i := by unfold State.drawRnd; split <;> rfl
@[simp] theorem State.drawRnd_pc (s : State) : s.drawRnd.pc = s.pc := by unfold State.drawRnd; split <;> rfl
@[simp] theorem State.drawRnd_stack (s : State) : s.drawRnd.stack = s.stack := by unfold State.drawRnd; split <;> rfl
@[simp] theorem State.drawRnd_sp (s : State) : s.drawRnd.sp = s.sp := by unfold State.drawRnd; split <;> rfl
@[simp] theorem State.drawRnd_fb (s : State) : s.drawRnd.fb = s.fb := by unfold State.drawRnd; split <;> rfl
@[simp] theorem State.drawRnd_keys (s : State) : s.drawRnd.keys = s.keys := by unfold State.drawRnd; split <;> rfl
@[simp] theorem State.drawRnd_dt (s : State) : s.drawRnd.dt = s.dt := by unfold State.drawRnd; split <;> rfl
@[simp] theorem State.drawRnd_st (s : State) : s.drawRnd.st = s.st := by unfold State.drawRnd; split <;> rfl
@[simp] theorem State.drawRnd_draw (s : State) : s.drawRnd.draw = s.draw := by unfold State.drawRnd; split <;> rfl
@[simp] theorem State.drawRnd_fault (s : State) : s.drawRnd.fault = s.fault := by unfold State.drawRnd; split <;> rfl
@[simp] theorem State.drawRnd_result (s : State) : s.drawRnd.result = s.result := by unfold State.drawRnd; split <;> rfl
@[simp] theorem State.drawRnd_pending (s : State) : s.drawRnd.pending = s.pending := by unfold State.drawRnd; split <;> rfl

/-- A draw takes the first fixed byte away. -/
theorem State.drawRnd_fed {s : State} {b : Byte} {bs : List Byte} (h : s.rngFeed = b :: bs) :
    s.rnd = b ∧ s.drawRnd.rngFeed = bs ∧ s.drawRnd.rngDraws = s.rngDraws := by
  unfold State.rnd State.drawRnd
  rw [h]
  exact ⟨rfl, rfl, rfl⟩

/-- A draw with no fixed byte takes the next free value. -/
theorem State.drawRnd_free {s : State} (h : s.rngFeed = []) :
    s.rnd = Config.rngByte s.rngDraws ∧ s.drawRnd.rngFeed = [] ∧ s.drawRnd.rngDraws = s.rngDraws + 1 := by
  unfold State.rnd State.drawRnd
  rw [h]
  exact ⟨rfl, rfl, rfl⟩

/-! ### `State.doReset` -/

@[simp] theorem State.doReset_ram (s : State) : s.doReset.ram = State.reset.ram := rfl
@[simp] theorem State.doReset_v (s : State) : s.doReset.v = State.reset.v := rfl
@[simp] theorem State.doReset_i (s : State) : s.doReset.i = State.reset.i := rfl
@[simp] theorem State.doReset_pc (s : State) : s.doReset.pc = State.reset.pc := rfl
@[simp] theorem State.doReset_stack (s : State) : s.doReset.stack = State.reset.stack := rfl
@[simp] theorem State.doReset_sp (s : State) : s.doReset.sp = State.reset.sp := rfl
@[simp] theorem State.doReset_fb (s : State) : s.doReset.fb = State.reset.fb := rfl
@[simp] theorem State.doReset_keys (s : State) : s.doReset.keys = State.reset.keys := rfl
@[simp] theorem State.doReset_dt (s : State) : s.doReset.dt = State.reset.dt := rfl
@[simp] theorem State.doReset_st (s : State) : s.doReset.st = State.reset.st := rfl
@[simp] theorem State.doReset_draw (s : State) : s.doReset.draw = State.reset.draw := rfl
@[simp] theorem State.doReset_fault (s : State) : s.doReset.fault = State.reset.fault := rfl
@[simp] theorem State.doReset_result (s : State) : s.doReset.result = State.reset.result := rfl
@[simp] theorem State.doReset_pending (s : State) : s.doReset.pending = s.pending := rfl
@[simp] theorem State.doReset_rngFeed (s : State) : s.doReset.rngFeed = s.rngFeed := rfl
@[simp] theorem State.doReset_rngDraws (s : State) : s.doReset.rngDraws = s.rngDraws := rfl

/-! ### Reading a register after a write -/

@[simp] theorem State.reg_setReg_self (s : State) (x : Reg) (b : Byte) : (s.setReg x b).reg x = b := by
  simp [State.reg, State.setReg]

@[simp] theorem State.reg_setReg_of_ne (s : State) {x r : Reg} (b : Byte) (h : r ≠ x) :
    (s.setReg x b).reg r = s.reg r := by
  have h' : x.val ≠ r.val := fun e => h (Fin.ext e.symm)
  simp [State.reg, State.setReg, h']

@[simp] theorem State.reg_setFlag_self (s : State) (f : Bool) : (s.setFlag f).reg 15 = flagByte f :=
  s.reg_setReg_self 15 _

@[simp] theorem State.reg_setFlag_of_ne (s : State) {r : Reg} (f : Bool) (h : r ≠ 15) :
    (s.setFlag f).reg r = s.reg r := s.reg_setReg_of_ne _ h

/-- R13: the flag is what `VF` holds after a VF-writer, whatever `x` is. -/
@[simp] theorem State.reg_setRegFlag_flag (s : State) (x : Reg) (r : Byte) (f : Bool) :
    (s.setRegFlag x r f).reg 15 = flagByte f := (s.setReg x r).reg_setFlag_self f

/-- R13: the result is what `V[x]` holds, unless `x = F`. -/
theorem State.reg_setRegFlag_result (s : State) {x : Reg} (r : Byte) (f : Bool) (h : x ≠ 15) :
    (s.setRegFlag x r f).reg x = r := by
  simp [State.setRegFlag, h]

theorem State.reg_setRegFlag_of_ne (s : State) {x k : Reg} (r : Byte) (f : Bool) (h : k ≠ x) (hf : k ≠ 15) :
    (s.setRegFlag x r f).reg k = s.reg k := by
  simp [State.setRegFlag, h, hf]

/-- R126: the registers up to `x` are loaded, the others keep their values. -/
@[simp] theorem State.reg_loadRegs (s : State) (x r : Reg) :
    (s.loadRegs x).reg r = if r ≤ x then s.memRead (s.ea r.val) else s.reg r := by
  simp [State.reg, State.loadRegs]

/-- Registers and RAM depend on `v` and `ram` alone. -/
theorem State.reg_congr {s t : State} (h : t.v = s.v) (r : Reg) : t.reg r = s.reg r := by
  simp [State.reg, h]

theorem State.memRead_congr {s t : State} (h : t.ram = s.ram) (a : Addr) : t.memRead a = s.memRead a := by
  simp [State.memRead, h]

theorem State.ea_congr {s t : State} (h : t.i = s.i) (k : Nat) : t.ea k = s.ea k := by
  simp [State.ea, h]

/-! ### Registers and RAM through the other updates -/

@[simp] theorem State.reg_ended (s : State) (target : Word16) (r : Reg) : (s.ended target).reg r = s.reg r := rfl
@[simp] theorem State.reg_answering (s : State) (q : StepResult) (r : Reg) : (s.answering q).reg r = s.reg r := rfl
@[simp] theorem State.reg_latched (s : State) (k : FaultKind) (r : Reg) : (s.latched k).reg r = s.reg r := rfl
@[simp] theorem State.reg_setI (s : State) (w : Word16) (r : Reg) : (s.setI w).reg r = s.reg r := rfl
@[simp] theorem State.reg_setDt (s : State) (b : Byte) (r : Reg) : (s.setDt b).reg r = s.reg r := rfl
@[simp] theorem State.reg_setSt (s : State) (b : Byte) (r : Reg) : (s.setSt b).reg r = s.reg r := rfl
@[simp] theorem State.reg_setFb (s : State) (fb : FrameBuffer) (r : Reg) : (s.setFb fb).reg r = s.reg r := rfl
@[simp] theorem State.reg_storeBytes (s : State) (bs : List Byte) (r : Reg) : (s.storeBytes bs).reg r = s.reg r := rfl
@[simp] theorem State.reg_drawRnd (s : State) (r : Reg) : s.drawRnd.reg r = s.reg r := State.reg_congr (by simp) r

@[simp] theorem State.memRead_ended (s : State) (target : Word16) (a : Addr) : (s.ended target).memRead a = s.memRead a := rfl
@[simp] theorem State.memRead_answering (s : State) (q : StepResult) (a : Addr) : (s.answering q).memRead a = s.memRead a := rfl
@[simp] theorem State.memRead_latched (s : State) (k : FaultKind) (a : Addr) : (s.latched k).memRead a = s.memRead a := rfl
@[simp] theorem State.memRead_setI (s : State) (w : Word16) (a : Addr) : (s.setI w).memRead a = s.memRead a := rfl
@[simp] theorem State.memRead_setDt (s : State) (b : Byte) (a : Addr) : (s.setDt b).memRead a = s.memRead a := rfl
@[simp] theorem State.memRead_setSt (s : State) (b : Byte) (a : Addr) : (s.setSt b).memRead a = s.memRead a := rfl
@[simp] theorem State.memRead_setFb (s : State) (fb : FrameBuffer) (a : Addr) : (s.setFb fb).memRead a = s.memRead a := rfl
@[simp] theorem State.memRead_setReg (s : State) (x : Reg) (b : Byte) (a : Addr) : (s.setReg x b).memRead a = s.memRead a := rfl
@[simp] theorem State.memRead_setFlag (s : State) (f : Bool) (a : Addr) : (s.setFlag f).memRead a = s.memRead a := rfl
@[simp] theorem State.memRead_setRegFlag (s : State) (x : Reg) (r : Byte) (f : Bool) (a : Addr) : (s.setRegFlag x r f).memRead a = s.memRead a := rfl
@[simp] theorem State.memRead_loadRegs (s : State) (x : Reg) (a : Addr) : (s.loadRegs x).memRead a = s.memRead a := rfl
@[simp] theorem State.memRead_drawRnd (s : State) (a : Addr) : s.drawRnd.memRead a = s.memRead a :=
  State.memRead_congr (by simp) a

/-- R12: a flag is 0 or 1. -/
theorem flagByte_zero_or_one (f : Bool) : flagByte f = 0#8 ∨ flagByte f = 1#8 := by
  cases f <;> decide

end Sys2Proof.Machine
end

