-- ==== Sys2Proof/Laws/Memory.lean ====
section
/-! SUPPORT. The laws of RAM: reading after writing, and that every memory operation keeps the canonical form. -/

namespace Sys2Proof.Machine

variable {m : Memory} {a a' k lo : Nat} {b : Byte}

theorem Memory.wfFrom_cons {c : Byte} :
    Memory.wfFrom lo ((k, c) :: m) = true ↔
      lo ≤ k ∧ k < Config.ramSize ∧ c ≠ resetByte k ∧ Memory.wfFrom (k + 1) m = true := by
  simp [Memory.wfFrom, and_assoc]

theorem Memory.wfFrom_mono {lo' : Nat} (h : lo' ≤ lo) (hw : Memory.wfFrom lo m = true) :
    Memory.wfFrom lo' m = true := by
  cases m with
  | nil => rfl
  | cons p m =>
    rw [Memory.wfFrom_cons] at hw ⊢
    exact ⟨h.trans hw.1, hw.2⟩

/-- Below the first listed address, memory reads as after reset. -/
theorem Memory.read_of_lt (hw : Memory.wfFrom lo m = true) (h : a < lo) : Memory.read m a = resetByte a := by
  induction m generalizing lo with
  | nil => rfl
  | cons p m ih =>
    obtain ⟨k, c⟩ := p
    rw [Memory.wfFrom_cons] at hw
    have hk : k ≠ a := by omega
    simp only [Memory.read, if_neg hk]
    exact ih hw.2.2.2 (by omega)

theorem Memory.wfFrom_put (h : lo ≤ a) (ha : a < Config.ramSize) (hw : Memory.wfFrom (a + 1) m = true) :
    Memory.wfFrom lo (Memory.put a b m) = true := by
  unfold Memory.put
  split
  · exact Memory.wfFrom_mono (by omega) hw
  · rw [Memory.wfFrom_cons]
    exact ⟨h, ha, ‹_›, hw⟩

theorem Memory.read_put (hw : Memory.wfFrom (a + 1) m = true) :
    Memory.read (Memory.put a b m) a' = if a' = a then b else Memory.read m a' := by
  unfold Memory.put
  split
  · split
    · subst a'
      rw [Memory.read_of_lt hw (by omega), ‹b = _›]
    · rfl
  · simp only [Memory.read, eq_comm (a := a)]

theorem Memory.wfFrom_write (h : lo ≤ a) (ha : a < Config.ramSize) (hw : Memory.wfFrom lo m = true) :
    Memory.wfFrom lo (Memory.write m a b) = true := by
  induction m generalizing lo with
  | nil => exact Memory.wfFrom_put h ha rfl
  | cons p m ih =>
    obtain ⟨k, c⟩ := p
    have hc := Memory.wfFrom_cons.mp hw
    unfold Memory.write
    split
    · exact Memory.wfFrom_put h ha (Memory.wfFrom_cons.mpr ⟨by omega, hc.2⟩)
    · split
      · subst a
        exact Memory.wfFrom_put h ha hc.2.2.2
      · exact Memory.wfFrom_cons.mpr ⟨hc.1, hc.2.1, hc.2.2.1, ih (by omega) hc.2.2.2⟩

/-- A write keeps the canonical form. -/
theorem Memory.wf_write (ha : a < Config.ramSize) (hw : m.wf = true) : (Memory.write m a b).wf = true :=
  Memory.wfFrom_write (Nat.zero_le a) ha hw

theorem Memory.read_write_from (hw : Memory.wfFrom lo m = true) :
    Memory.read (Memory.write m a b) a' = if a' = a then b else Memory.read m a' := by
  induction m generalizing lo with
  | nil => exact Memory.read_put rfl
  | cons p m ih =>
    obtain ⟨k, c⟩ := p
    have hc := Memory.wfFrom_cons.mp hw
    unfold Memory.write
    split
    · exact Memory.read_put (Memory.wfFrom_cons.mpr ⟨by omega, hc.2⟩)
    · split
      · subst a
        rw [Memory.read_put hc.2.2.2]
        by_cases h : a' = k
        · simp [h]
        · simp [h, Memory.read, Ne.symm h]
      · simp only [Memory.read, ih hc.2.2.2]
        by_cases h : k = a'
        · have : a' ≠ a := by omega
          simp [h, this]
        · simp [h]

/-- Reading after a write: the byte written at its address, the old byte everywhere else. -/
theorem Memory.read_write (hw : m.wf = true) :
    Memory.read (Memory.write m a b) a' = if a' = a then b else Memory.read m a' :=
  Memory.read_write_from hw

theorem Memory.read_put_of_ne (h : a' ≠ a) : Memory.read (Memory.put a b m) a' = Memory.read m a' := by
  unfold Memory.put
  split
  · rfl
  · simp [Memory.read, h.symm]

/-- A write leaves every other address alone, in any memory. -/
theorem Memory.read_write_of_ne (h : a' ≠ a) : Memory.read (Memory.write m a b) a' = Memory.read m a' := by
  induction m with
  | nil => exact Memory.read_put_of_ne h
  | cons p m ih =>
    obtain ⟨k, c⟩ := p
    unfold Memory.write
    split
    · exact Memory.read_put_of_ne h
    · split
      · subst a
        rw [Memory.read_put_of_ne h]
        simp [Memory.read, h.symm]
      · simp only [Memory.read, ih]

/-- Writing bytes in a row keeps the canonical form. -/
theorem Memory.wf_writeFrom {addr : Nat → Nat} {bs : List Byte}
    (ha : ∀ j, j < bs.length → addr (k + j) < Config.ramSize) (hw : m.wf = true) :
    (Memory.writeFrom addr k bs m).wf = true := by
  induction bs generalizing k m with
  | nil => exact hw
  | cons b bs ih =>
    refine ih (fun j hj => ?_) (Memory.wf_write (by simpa using ha 0 (by simp)) hw)
    have := ha (j + 1) (by simpa using hj)
    rwa [show k + 1 + j = k + (j + 1) by omega]

/-- Writing bytes in a row leaves every other address alone, in any memory. -/
theorem Memory.read_writeFrom_of_ne {addr : Nat → Nat} {bs : List Byte}
    (hne : ∀ j, j < bs.length → a ≠ addr (k + j)) :
    Memory.read (Memory.writeFrom addr k bs m) a = Memory.read m a := by
  induction bs generalizing k m with
  | nil => rfl
  | cons b bs ih =>
    rw [Memory.writeFrom, ih (fun j hj => ?_), Memory.read_write_of_ne (by simpa using hne 0 (by simp))]
    rw [show k + 1 + j = k + (j + 1) by omega]
    exact hne (j + 1) (by simpa using hj)

/-- Writing bytes in a row to distinct addresses puts each where it belongs. -/
theorem Memory.read_writeFrom {addr : Nat → Nat} {bs : List Byte}
    (ha : ∀ j, j < bs.length → addr (k + j) < Config.ramSize) (hw : m.wf = true)
    (hinj : ∀ j j', j < bs.length → j' < bs.length → addr (k + j) = addr (k + j') → j = j')
    {j : Nat} (hj : j < bs.length) :
    Memory.read (Memory.writeFrom addr k bs m) (addr (k + j)) = bs[j] := by
  induction bs generalizing k m j with
  | nil => simp at hj
  | cons b bs ih =>
    have h0 : addr k < Config.ramSize := by simpa using ha 0 (by simp)
    have e : ∀ j, k + 1 + j = k + (j + 1) := fun j => by omega
    have ha' : ∀ j, j < bs.length → addr (k + 1 + j) < Config.ramSize :=
      fun j hj => e j ▸ ha (j + 1) (by simpa using hj)
    cases j with
    | zero =>
      rw [Memory.writeFrom, Memory.read_writeFrom_of_ne, Memory.read_write hw]
      · simp
      · intro j hj h
        have := hinj 0 (j + 1) (by simp) (by simpa using hj) (by rw [← e]; simpa using h)
        omega
    | succ j =>
      have := ih (k := k + 1) ha' (Memory.wf_write (b := b) h0 hw)
        (fun i i' hi hi' h => by
          have := hinj (i + 1) (i' + 1) (by simpa using hi) (by simpa using hi') (by rw [← e i, ← e i']; exact h)
          omega) (by simpa using hj)
      rw [e] at this
      simpa [Memory.writeFrom] using this

/-! ### The addresses of a store at `I` -/

/-- The at most 16 effective addresses of one instruction are distinct (R124, R125). -/
theorem State.ea_inj (s : State) {j j' : Nat} (h : j < 16) (h' : j' < 16) (e : s.ea j = s.ea j') : j = j' := by
  have := congrArg BitVec.toNat e
  simp only [State.ea, BitVec.toNat_ofNat] at this
  omega

theorem State.ea_toNat_lt (s : State) (j : Nat) : (s.ea j).toNat < Config.ramSize := (s.ea j).isLt

/-- What `storeBytes` puts into RAM: byte `j` at `EA(j)`. -/
theorem State.memRead_storeBytes (s : State) {bs : List Byte} (hw : s.ram.wf = true) (hl : bs.length ≤ 16)
    {j : Nat} (hj : j < bs.length) : (s.storeBytes bs).memRead (s.ea j) = bs[j] := by
  have := Memory.read_writeFrom (m := s.ram) (k := 0) (addr := fun k => (s.ea k).toNat) (bs := bs)
    (fun j _ => s.ea_toNat_lt (0 + j)) hw
    (fun i i' hi hi' h => by
      simp only [Nat.zero_add] at h
      exact s.ea_inj (by omega) (by omega) (BitVec.eq_of_toNat_eq h)) hj
  simpa [State.memRead, State.storeBytes] using this

/-- `storeBytes` changes no other byte. -/
theorem State.memRead_storeBytes_of_ne (s : State) {bs : List Byte} {a : Addr}
    (hne : ∀ j, j < bs.length → a ≠ s.ea j) : (s.storeBytes bs).memRead a = s.memRead a :=
  Memory.read_writeFrom_of_ne
    (fun j hj h => hne j hj (BitVec.eq_of_toNat_eq (by simpa using h)))

theorem State.wf_storeBytes (s : State) (bs : List Byte) (hw : s.ram.wf = true) :
    (s.storeBytes bs).ram.wf = true :=
  Memory.wf_writeFrom (fun j _ => s.ea_toNat_lt (0 + j)) hw

/-- RAM after reset lists nothing: canonical. -/
theorem reset_ram_wf : State.reset.ram.wf = true := rfl

end Sys2Proof.Machine
end

