-- ==== Sys2Proof/Laws/Ops.lean ====
section
/-! SUPPORT. What each shared operation can do, said once: the stack, the keypad, the end of an instruction. -/

namespace Sys2Proof.Machine

/-! ### The stack -/

/-- A push fails exactly when 16 addresses are held (R18). -/
theorem State.push_eq_none_iff {s : State} {a : Word16} : s.push a = none ↔ s.sp.val = 16 := by
  unfold State.push
  have := s.sp.isLt
  split <;> simp <;> omega

/-- A push writes the cell `STACK[SP]`, adds 1 to `SP`, and changes nothing else (R81). -/
theorem State.push_eq_some {s t : State} {a : Word16} (h : s.push a = some t) :
    s.sp.val < 16 ∧ t.sp.val = s.sp.val + 1 ∧
      (∀ k : Fin 16, t.stack[k] = if k.val = s.sp.val then a else s.stack[k]) ∧
      t = { s with stack := t.stack, sp := t.sp } := by
  unfold State.push at h
  split at h
  · rename_i hsp
    cases h
    refine ⟨hsp, rfl, fun k => ?_, rfl⟩
    simp [Vector.getElem_set, eq_comm]
  · cases h

/-- A pop fails exactly when no address is held (R18). -/
theorem State.pop_eq_none_iff {s : State} : s.pop = none ↔ s.sp.val = 0 := by
  unfold State.pop
  split <;> simp <;> omega

/-- A pop takes 1 from `SP`, answers the entry at the new `SP`, and changes nothing else: the cell is not cleared. -/
theorem State.pop_eq_some {s t : State} {a : Word16} (h : s.pop = some (a, t)) :
    0 < s.sp.val ∧ t.sp.val = s.sp.val - 1 ∧ (∃ k : Fin 16, k.val = s.sp.val - 1 ∧ a = s.stack[k]) ∧
      t = { s with sp := t.sp } := by
  unfold State.pop at h
  split at h
  · rename_i hsp
    cases h
    exact ⟨hsp, rfl, ⟨⟨s.sp.val - 1, by omega⟩, rfl, rfl⟩, rfl⟩
  · cases h

/-! ### The keypad -/

theorem State.lowestKey_eq_none_iff {s : State} : s.lowestKey = none ↔ ∀ k, s.keyDown k = false := by
  simp [State.lowestKey]

/-- The lowest key that is down (R148, R177). -/
theorem State.lowestKey_eq_some {s : State} {k : Fin 16} (h : s.lowestKey = some k) :
    s.keyDown k = true ∧ ∀ j < k, s.keyDown j = false := by
  obtain ⟨hk, as, bs, e, hn⟩ := List.find?_eq_some_iff_append.mp h
  refine ⟨hk, fun j hj => ?_⟩
  have hsorted : (List.finRange 16).Pairwise (· < ·) := by decide
  have hmem : j ∈ as ++ k :: bs := e ▸ List.mem_finRange j
  rw [e, List.pairwise_append, List.pairwise_cons] at hsorted
  rcases List.mem_append.mp hmem with h | h
  · simpa using hn j h
  · rcases List.mem_cons.mp h with rfl | h
    · exact absurd hj (lt_irrefl _)
    · exact absurd (hsorted.2.1.1 j h) (not_lt_of_gt hj)

/-! ### Stores -/

@[simp] theorem length_bcdDigits (b : Byte) : (bcdDigits b).length = 3 := rfl

@[simp] theorem State.length_regsUpTo (s : State) (x : Reg) : (s.regsUpTo x).length = x.val + 1 := by
  simp [State.regsUpTo]

theorem State.getElem_regsUpTo (s : State) {x k : Reg} (h : k ≤ x) :
    (s.regsUpTo x)[k.val]'(by rw [s.length_regsUpTo]; exact Nat.lt_succ_of_le h) = s.reg k := by
  simp [State.regsUpTo, State.reg]

end Sys2Proof.Machine
end

