-- ==== Sys2Proof/Laws/Frame.lean ====
section
/-! SUPPORT. Frames: how to show that little changes, and what the shared ends of an instruction change. -/

namespace Sys2Proof.Machine

variable {s t : State} {regs : Reg → Prop} {items : List Item} {mem : Addr → Prop}

/-- A frame for an operation that does not touch RAM. -/
theorem ChangesOnly.of_ram (hr : ∀ r, ¬ regs r → t.reg r = s.reg r) (hi : ∀ it, it ∉ items → it.Same s t)
    (hm : t.ram = s.ram) : ChangesOnly regs items mem s t :=
  ⟨hr, hi, fun a _ => State.memRead_congr hm a⟩

/-- A frame may always be widened. -/
theorem ChangesOnly.mono {regs' : Reg → Prop} {items' : List Item} {mem' : Addr → Prop}
    (h : ChangesOnly regs items mem s t) (hr : ∀ r, regs r → regs' r) (hi : ∀ it ∈ items, it ∈ items')
    (hm : ∀ a, mem a → mem' a) : ChangesOnly regs' items' mem' s t :=
  ⟨fun r h' => h.1 r (fun e => h' (hr r e)), fun it h' => h.2.1 it (fun e => h' (hi it e)),
    fun a h' => h.2.2 a (fun e => h' (hm a e))⟩

/-- Nothing changes from a state to itself. -/
theorem Item.same_refl (it : Item) (s : State) : it.Same s s := by
  cases it <;> first | rfl | exact ⟨rfl, rfl⟩

/-- An item an instruction's end does not write keeps its value. -/
theorem Item.same_ended {it : Item} (p : Word16) (h : it ∉ plain) (hs : it.Same s t) : it.Same s (t.ended p) := by
  cases it <;> first | exact hs | simp at h

/-- An instruction that only moves `PC`. -/
theorem frame_ended (s : State) (p : Word16) : ChangesOnly noReg plain noByte s (s.ended p) :=
  .of_ram (fun _ _ => rfl) (fun it h => Item.same_ended p h (it.same_refl s)) rfl

/-- An instruction with one destination register. -/
theorem frame_setReg_ended (s : State) (x : Reg) (b : Byte) (p : Word16) :
    ChangesOnly (only x) plain noByte s ((s.setReg x b).ended p) :=
  .of_ram (fun _ h => s.reg_setReg_of_ne b h) (fun it h => Item.same_ended p h (it.same_refl s)) rfl

/-- A VF-writer with a numeric result. -/
theorem frame_setRegFlag_ended (s : State) (x : Reg) (b : Byte) (f : Bool) (p : Word16) :
    ChangesOnly (andFlag x) plain noByte s ((s.setRegFlag x b f).ended p) :=
  .of_ram (fun _ h => s.reg_setRegFlag_of_ne b f (fun e => h (.inl e)) (fun e => h (.inr e)))
    (fun it h => Item.same_ended p h (it.same_refl s)) rfl

/-- An instruction that stores bytes at `I`. -/
theorem frame_storeBytes_ended (s : State) (bs : List Byte) (p : Word16) :
    ChangesOnly noReg plain (bytesAtI s bs.length) s ((s.storeBytes bs).ended p) :=
  ⟨fun _ _ => rfl, fun it h => Item.same_ended p h (it.same_refl s),
    fun _ h => s.memRead_storeBytes_of_ne (fun j hj e => h ⟨j, hj, e⟩)⟩

/-- The block load of registers. -/
theorem frame_loadRegs_ended (s : State) (x : Reg) (p : Word16) :
    ChangesOnly (fun r => r ≤ x) plain noByte s ((s.loadRegs x).ended p) :=
  .of_ram (fun r h => by rw [State.reg_ended, State.reg_loadRegs, if_neg h])
    (fun it h => Item.same_ended p h (by cases it <;> simp [Item.Same])) rfl

end Sys2Proof.Machine
end

