-- ==== Sys2Proof/Laws/PerInstr.lean ====
section
/-! SUPPORT. Statements about every instruction as syntax, one lemma per constructor. -/

namespace Sys2Proof

/-- The major opcode of an instruction, from the patterns of 30_encoding.md rule R65. -/
def Instr.major : Instr → BitVec 4
  | .cls | .ret | .sys _ => 0x0
  | .jp _ => 0x1
  | .call _ => 0x2
  | .seVxKk _ _ => 0x3
  | .sneVxKk _ _ => 0x4
  | .seVxVy _ _ => 0x5
  | .ldVxKk _ _ => 0x6
  | .addVxKk _ _ => 0x7
  | .ldVxVy _ _ | .orVxVy _ _ | .andVxVy _ _ | .xorVxVy _ _ => 0x8
  | .addVxVy _ _ | .subVxVy _ _ | .shrVxVy _ _ | .subnVxVy _ _ | .shlVxVy _ _ => 0x8
  | .sneVxVy _ _ => 0x9
  | .ldINnn _ => 0xA
  | .jpV0Nnn _ => 0xB
  | .rndVxKk _ _ => 0xC
  | .drwVxVyN _ _ _ => 0xD
  | .skpVx _ | .sknpVx _ => 0xE
  | .ldVxDt _ | .ldVxK _ | .ldDtVx _ | .ldStVx _ | .addIVx _ => 0xF
  | .ldFVx _ | .ldBVx _ | .ldMemVx _ | .ldVxMem _ => 0xF

end Sys2Proof

namespace Sys2Proof.Laws.MajorOpcode

/-- The encoder puts the major opcode of R65 into bits 15 to 12. -/
def Statement (i : Instr) : Prop := majorOf (encode i) = i.major

theorem cls : Statement .cls := by unfold Statement; decide
theorem ret : Statement .ret := by unfold Statement; decide
theorem sys (nnn : Addr) : Statement (.sys nnn) := majorOf_encNNN _ _
theorem jp (nnn : Addr) : Statement (.jp nnn) := majorOf_encNNN _ _
theorem call (nnn : Addr) : Statement (.call nnn) := majorOf_encNNN _ _
theorem seVxKk (x : Reg) (kk : Byte) : Statement (.seVxKk x kk) := majorOf_encXKK _ _ _
theorem sneVxKk (x : Reg) (kk : Byte) : Statement (.sneVxKk x kk) := majorOf_encXKK _ _ _
theorem seVxVy (x : Reg) (y : Reg) : Statement (.seVxVy x y) := majorOf_encXYN _ _ _ _
theorem ldVxKk (x : Reg) (kk : Byte) : Statement (.ldVxKk x kk) := majorOf_encXKK _ _ _
theorem addVxKk (x : Reg) (kk : Byte) : Statement (.addVxKk x kk) := majorOf_encXKK _ _ _
theorem ldVxVy (x : Reg) (y : Reg) : Statement (.ldVxVy x y) := majorOf_encXYN _ _ _ _
theorem orVxVy (x : Reg) (y : Reg) : Statement (.orVxVy x y) := majorOf_encXYN _ _ _ _
theorem andVxVy (x : Reg) (y : Reg) : Statement (.andVxVy x y) := majorOf_encXYN _ _ _ _
theorem xorVxVy (x : Reg) (y : Reg) : Statement (.xorVxVy x y) := majorOf_encXYN _ _ _ _
theorem addVxVy (x : Reg) (y : Reg) : Statement (.addVxVy x y) := majorOf_encXYN _ _ _ _
theorem subVxVy (x : Reg) (y : Reg) : Statement (.subVxVy x y) := majorOf_encXYN _ _ _ _
theorem shrVxVy (x : Reg) (y : Reg) : Statement (.shrVxVy x y) := majorOf_encXYN _ _ _ _
theorem subnVxVy (x : Reg) (y : Reg) : Statement (.subnVxVy x y) := majorOf_encXYN _ _ _ _
theorem shlVxVy (x : Reg) (y : Reg) : Statement (.shlVxVy x y) := majorOf_encXYN _ _ _ _
theorem sneVxVy (x : Reg) (y : Reg) : Statement (.sneVxVy x y) := majorOf_encXYN _ _ _ _
theorem ldINnn (nnn : Addr) : Statement (.ldINnn nnn) := majorOf_encNNN _ _
theorem jpV0Nnn (nnn : Addr) : Statement (.jpV0Nnn nnn) := majorOf_encNNN _ _
theorem rndVxKk (x : Reg) (kk : Byte) : Statement (.rndVxKk x kk) := majorOf_encXKK _ _ _
theorem drwVxVyN (x : Reg) (y : Reg) (n : Fin 16) : Statement (.drwVxVyN x y n) := majorOf_encXYN _ _ _ _
theorem skpVx (x : Reg) : Statement (.skpVx x) := majorOf_encXKK _ _ _
theorem sknpVx (x : Reg) : Statement (.sknpVx x) := majorOf_encXKK _ _ _
theorem ldVxDt (x : Reg) : Statement (.ldVxDt x) := majorOf_encXKK _ _ _
theorem ldVxK (x : Reg) : Statement (.ldVxK x) := majorOf_encXKK _ _ _
theorem ldDtVx (x : Reg) : Statement (.ldDtVx x) := majorOf_encXKK _ _ _
theorem ldStVx (x : Reg) : Statement (.ldStVx x) := majorOf_encXKK _ _ _
theorem addIVx (x : Reg) : Statement (.addIVx x) := majorOf_encXKK _ _ _
theorem ldFVx (x : Reg) : Statement (.ldFVx x) := majorOf_encXKK _ _ _
theorem ldBVx (x : Reg) : Statement (.ldBVx x) := majorOf_encXKK _ _ _
theorem ldMemVx (x : Reg) : Statement (.ldMemVx x) := majorOf_encXKK _ _ _
theorem ldVxMem (x : Reg) : Statement (.ldVxMem x) := majorOf_encXKK _ _ _

end Sys2Proof.Laws.MajorOpcode
end

