-- ==== Sys2Proof/Laws/Raster.lean ====
section
/-! SUPPORT. What the sprite rasterizer does to each pixel and to the collision flag (43_display.md rule R137): one
pixel, one row, the whole sprite. -/

namespace Sys2Proof.Machine

variable {t : Raster} {x0 X Y X' Y' : Nat} {px : Bool} {b : Byte} {cs : List Nat} {bs : List Byte}

theorem getLsbD_pixelMask : (pixelMask X px).getLsbD X' = (decide (X < 64 ∧ X' = X) && px) := by
  unfold pixelMask
  cases px
  · simp
  · simp only [↓reduceIte, BitVec.getLsbD_shiftLeft, BitVec.getLsbD_one, Bool.and_true]
    rw [Bool.eq_iff_iff]
    simp
    omega

/-! ### One pixel -/

/-- XOR at the target if it is on the display, nothing elsewhere. -/
theorem pixelOf_plot : pixelOf (t.plot X Y px).fb X' Y' =
    xor (pixelOf t.fb X' Y') (decide (X ≤ 63 ∧ Y ≤ 31 ∧ X' = X ∧ Y' = Y) && px) := by
  unfold Raster.plot
  split
  · rename_i h
    unfold pixelOf
    by_cases hY : Y' < 32
    · by_cases e : Y' = Y
      · subst e
        have h64 : X < 64 := by omega
        simp [hY, h, getLsbD_pixelMask, h64]
      · simp [hY, Ne.symm e, e]
    · have : Y' ≠ Y := by omega
      simp [hY, this]
  · rename_i h
    have : ¬ (X ≤ 63 ∧ Y ≤ 31 ∧ X' = X ∧ Y' = Y) := fun h' => h ⟨h'.1, h'.2.1⟩
    simp [this]

/-- A collision is a lit sprite pixel on a lit pixel of the display. -/
theorem hit_plot : (t.plot X Y px).hit = true ↔
    t.hit = true ∨ (X ≤ 63 ∧ Y ≤ 31 ∧ px = true ∧ pixelOf t.fb X Y = true) := by
  unfold Raster.plot
  split
  · rename_i h
    have hY : Y < 32 := by omega
    simp [pixelOf, hY, h]
  · rename_i h
    constructor
    · exact .inl
    · rintro (h' | h')
      · exact h'
      · exact absurd ⟨h'.1, h'.2.1⟩ h

/-! ### One row -/

theorem pixelOf_plotColumns (hn : cs.Nodup) : pixelOf (Raster.plotColumns x0 Y b cs t).fb X' Y' =
    xor (pixelOf t.fb X' Y')
      (decide (X' ≤ 63 ∧ Y ≤ 31 ∧ Y' = Y ∧ x0 ≤ X' ∧ X' - x0 ∈ cs) && spriteBit b (X' - x0)) := by
  induction cs generalizing t with
  | nil => simp [Raster.plotColumns]
  | cons c cs ih =>
    obtain ⟨hc, hn⟩ := List.nodup_cons.mp hn
    rw [Raster.plotColumns, ih hn, pixelOf_plot, Bool.xor_assoc]
    congr 1
    by_cases e : X' = x0 + c
    · subst e
      simp [hc]
    · have e' : ¬ (x0 ≤ X' ∧ X' - x0 = c) := by omega
      by_cases hx : x0 ≤ X'
      · have : X' - x0 ≠ c := fun h => e' ⟨hx, h⟩
        simp [e, this]
      · simp [e, hx]

theorem hit_plotColumns (hn : cs.Nodup) : (Raster.plotColumns x0 Y b cs t).hit = true ↔
    t.hit = true ∨
      ∃ c ∈ cs, x0 + c ≤ 63 ∧ Y ≤ 31 ∧ spriteBit b c = true ∧ pixelOf t.fb (x0 + c) Y = true := by
  induction cs generalizing t with
  | nil => simp [Raster.plotColumns]
  | cons c cs ih =>
    obtain ⟨hc, hn⟩ := List.nodup_cons.mp hn
    rw [Raster.plotColumns, ih hn, hit_plot, or_assoc]
    have key : ∀ d ∈ cs, pixelOf (t.plot (x0 + c) Y (spriteBit b c)).fb (x0 + d) Y = pixelOf t.fb (x0 + d) Y := by
      intro d hd
      have : d ≠ c := fun h => hc (h ▸ hd)
      rw [pixelOf_plot]
      simp [this]
    constructor
    · rintro (h | h | ⟨d, hd, h⟩)
      · exact .inl h
      · exact .inr ⟨c, by simp, h⟩
      · rw [key d hd] at h
        exact .inr ⟨d, by simp [hd], h⟩
    · rintro (h | ⟨d, hd, h⟩)
      · exact .inl h
      · rcases List.mem_cons.mp hd with rfl | hd
        · exact .inr (.inl h)
        · rw [← key d hd] at h
          exact .inr (.inr ⟨d, hd, h⟩)

theorem mem_columns {c : Nat} : c ∈ [0, 1, 2, 3, 4, 5, 6, 7] ↔ c < 8 := by
  simp only [List.mem_cons, List.not_mem_nil, or_false]
  omega

/-! ### The whole sprite -/

/-- Every pixel after drawing: the old one, XOR the sprite's bit where the sprite covers it. -/
theorem pixelOf_plotRows : pixelOf (Raster.plotRows x0 Y bs t).fb X' Y' =
    xor (pixelOf t.fb X' Y')
      (decide (X' ≤ 63 ∧ Y' ≤ 31 ∧ x0 ≤ X' ∧ X' - x0 < 8 ∧ Y ≤ Y' ∧ Y' - Y < bs.length) &&
        spriteBit (bs.getD (Y' - Y) 0#8) (X' - x0)) := by
  induction bs generalizing t Y with
  | nil => simp [Raster.plotRows]
  | cons b bs ih =>
    rw [Raster.plotRows, ih, pixelOf_plotColumns (by decide), Bool.xor_assoc]
    congr 1
    simp only [mem_columns]
    rcases Nat.lt_trichotomy Y' Y with h | h | h
    · have h1 : ¬ Y + 1 ≤ Y' := by omega
      have h2 : ¬ Y ≤ Y' := by omega
      have h3 : Y' ≠ Y := by omega
      simp [h1, h2, h3]
    · subst h
      simp
    · have h1 : Y' - Y = (Y' - (Y + 1)) + 1 := by omega
      have h3 : Y' ≠ Y := by omega
      have h4 : Y + 1 ≤ Y' := by omega
      have h5 : Y ≤ Y' := by omega
      rw [h1]
      simp [h3, h4, h5]

/-- The collision flag after drawing. -/
theorem hit_plotRows : (Raster.plotRows x0 Y bs t).hit = true ↔
    t.hit = true ∨ ∃ r < bs.length, ∃ c < 8, x0 + c ≤ 63 ∧ Y + r ≤ 31 ∧
      spriteBit (bs.getD r 0#8) c = true ∧ pixelOf t.fb (x0 + c) (Y + r) = true := by
  induction bs generalizing t Y with
  | nil => simp [Raster.plotRows]
  | cons b bs ih =>
    rw [Raster.plotRows, ih, hit_plotColumns (by decide), or_assoc]
    have key : ∀ c r, pixelOf (Raster.plotColumns x0 Y b [0, 1, 2, 3, 4, 5, 6, 7] t).fb (x0 + c) (Y + 1 + r) =
        pixelOf t.fb (x0 + c) (Y + 1 + r) := by
      intro c r
      rw [pixelOf_plotColumns (by decide)]
      have : Y + 1 + r ≠ Y := by omega
      simp [this]
    constructor
    · rintro (h | ⟨c, hc, h⟩ | ⟨r, hr, c, hc, h⟩)
      · exact .inl h
      · exact .inr ⟨0, by simp, c, mem_columns.mp hc, by simpa using h⟩
      · rw [key] at h
        exact .inr ⟨r + 1, by simpa using hr, c, hc, by
          rw [show Y + (r + 1) = Y + 1 + r by omega]; simpa using h⟩
    · rintro (h | ⟨r, hr, c, hc, h⟩)
      · exact .inl h
      · cases r with
        | zero => exact .inr (.inl ⟨c, mem_columns.mpr hc, by simpa using h⟩)
        | succ r =>
          refine .inr (.inr ⟨r, by simpa using hr, c, hc, ?_⟩)
          rw [key, show Y + 1 + r = Y + (r + 1) by omega]
          simpa using h

/-! ### The sprite of a state -/

@[simp] theorem State.length_loadBytes (s : State) (n : Nat) : (s.loadBytes n).length = n := by
  simp [State.loadBytes]

theorem State.getD_loadBytes (s : State) {n r : Nat} (h : r < n) :
    (s.loadBytes n).getD r 0#8 = s.memRead (s.ea r) := by
  simp [State.loadBytes, List.getD_eq_getElem?_getD, h]

end Sys2Proof.Machine
end

