-- ==== Sys2Proof/Laws/Step.lean ====
section
/-! SUPPORT. What one step can do, said once: every later lemma about a step starts from these. -/

namespace Sys2Proof.Machine

/-- A step that goes on runs the first pending operation, or `step_one` when none is pending and nothing is latched. -/
theorem step_next_cases {s t : State} (h : step s = .next t) :
    (∃ op rest, s.pending = op :: rest ∧ performOp op { s with pending := rest } = .next t) ∨
      (s.pending = [] ∧ s.fault = none ∧ stepOne s = .next t) := by
  unfold step at h
  split at h
  · exact .inl ⟨_, _, ‹_›, h⟩
  · split at h
    · cases h
    · exact .inr ⟨‹_›, ‹_›, h⟩

/-- The four ways through `step_one` (R60): a latched fault, a bad `PC`, an illegal word, an executed instruction. -/
theorem stepOne_next_cases {s t : State} (h : stepOne s = .next t) :
    (∃ k, s.fault = some k ∧ t = s.answering (.fault k)) ∨
    (s.fault = none ∧ 0xFFE < s.pc.toNat ∧ t = s.latched .badPC) ∨
    (∃ op, s.fault = none ∧ s.pc.toNat ≤ 0xFFE ∧ decode s.fetchWord = .illegal op ∧
      t = s.latched (.illegalOpcode op)) ∨
    (∃ i, s.fault = none ∧ s.pc.toNat ≤ 0xFFE ∧ decode s.fetchWord = .instr i ∧ exec i s = .next t) := by
  unfold stepOne at h
  split at h
  · cases h
    exact .inl ⟨_, ‹_›, rfl⟩
  · split at h
    · cases h
      exact .inr (.inl ⟨‹_›, by omega, rfl⟩)
    · split at h
      · cases h
        exact .inr (.inr (.inl ⟨_, ‹_›, by omega, ‹_›, rfl⟩))
      · exact .inr (.inr (.inr ⟨_, ‹_›, by omega, ‹_›, h⟩))

/-- `step_one` on a word that decodes runs its meaning. -/
theorem stepOne_of_decode {s : State} {i : Instr} (hf : s.fault = none) (hp : s.pc.toNat ≤ 0xFFE)
    (hd : decode s.fetchWord = .instr i) : stepOne s = exec i s := by
  unfold stepOne
  rw [hf]
  simp only [if_neg (Nat.not_lt.mpr hp), hd]

/-- A run of one step more, as a case analysis on its first step. -/
theorem run_succ (m : Nat) (s : State) : Sys2Proof.core.run (m + 1) s =
    match step s with
    | .next t => Sys2Proof.core.run m t
    | .fault r => .fault r
    | .refused r => .refused r := by
  have h : Sys2Proof.core.step s = step s := rfl
  cases e : step s <;> rw [e] at h <;> simp only [Host.Core.run, h]

end Sys2Proof.Machine
end

