-- ==== Sys2Proof/Tests/Slice0.lean ====
section
/-! SUPPORT. Tests. Every expected value is the manual's: a word of 95_test_vectors.md or one written out from the
pattern of 30_encoding.md rule R65, a vector `V-…` or a program of 95_test_vectors.md. The last part gives, for each
statement with hypotheses, a concrete state and operands that meet them. -/

open Sys2Proof Sys2Proof.Machine Sys2Proof.Claims

namespace Sys2Proof.Tests

/-! ### Helpers -/

/-- `p` of the next state; false where there is none. -/
def nextIs (a : Answer) (p : State → Bool) : Bool :=
  match a with
  | .next t => p t
  | .fault _ => false
  | .refused _ => false

/-- The state after `load` of the one word `w`: where a vector of 95_test_vectors.md starts. -/
def loaded (w : Nat) : State := State.reset.load [BitVec.ofNat 8 (w / 256), BitVec.ofNat 8 w]

/-- One `step_one` of the word `w` at 0x200 after the state is set by hand. -/
def one (w : Nat) (set : State → State) (p : State → Bool) : Bool := nextIs (stepOne (set (loaded w))) p

/-- The state with bytes stored from address `a` on. -/
def putBytes (a : Nat) (bs : List Byte) (s : State) : State :=
  { s with ram := Memory.writeFrom (fun k => a + k) 0 bs s.ram }

/-- The state with one pixel lit. -/
def lit (X Y : Nat) (s : State) : State :=
  if h : Y < 32 then { s with fb := s.fb.set Y (s.fb[Y] ||| (1#64 <<< X)) } else s

/-- The state at an instruction word `w` placed at `a`, with `PC` there. -/
def placed (a w : Nat) : State :=
  { putBytes a [BitVec.ofNat 8 (w / 256), BitVec.ofNat 8 w] State.reset with pc := BitVec.ofNat 16 a }

/-! ### Well-formedness: the two words that are not SYS -/

theorem test_wf_refuses_sys_0E0 : (Instr.sys 0x0E0).wf = false := by decide
theorem test_wf_refuses_sys_0EE : (Instr.sys 0x0EE).wf = false := by decide
theorem test_wf_takes_sys_0E1 : (Instr.sys 0x0E1).wf = true := by decide

/-! ### Decoding: every row of R65 on a word written out from its pattern -/

theorem test_decode_cls : decode 0b0000000011100000 = .instr .cls := by decide
theorem test_decode_ret : decode 0b0000000011101110 = .instr .ret := by decide
theorem test_decode_sys : decode 0b0000000100100011 = .instr (.sys 0x123) := by decide
theorem test_decode_jp : decode 0b0001001000000100 = .instr (.jp 0x204) := by decide
theorem test_decode_call : decode 0b0010101010111100 = .instr (.call 0xABC) := by decide
theorem test_decode_se_kk : decode 0b0011000000001010 = .instr (.seVxKk 0 0x0A) := by decide
theorem test_decode_sne_kk : decode 0b0100001100010001 = .instr (.sneVxKk 3 0x11) := by decide
theorem test_decode_se_vy : decode 0b0101000100100000 = .instr (.seVxVy 1 2) := by decide
theorem test_decode_ld_kk : decode 0b0110111100010010 = .instr (.ldVxKk 15 0x12) := by decide
theorem test_decode_add_kk : decode 0b0111111111111111 = .instr (.addVxKk 15 0xFF) := by decide
theorem test_decode_ld_vy : decode 0b1000000000010000 = .instr (.ldVxVy 0 1) := by decide
theorem test_decode_or : decode 0b1000111110100001 = .instr (.orVxVy 15 10) := by decide
theorem test_decode_and : decode 0b1000000000010010 = .instr (.andVxVy 0 1) := by decide
theorem test_decode_xor : decode 0b1000000000010011 = .instr (.xorVxVy 0 1) := by decide
theorem test_decode_add_vy : decode 0b1000000111110100 = .instr (.addVxVy 1 15) := by decide
theorem test_decode_sub : decode 0b1000000111110101 = .instr (.subVxVy 1 15) := by decide
theorem test_decode_shr : decode 0b1000001010100110 = .instr (.shrVxVy 2 10) := by decide
theorem test_decode_subn : decode 0b1000111100010111 = .instr (.subnVxVy 15 1) := by decide
theorem test_decode_shl : decode 0b1000001000001110 = .instr (.shlVxVy 2 0) := by decide
theorem test_decode_sne_vy : decode 0b1001000100100000 = .instr (.sneVxVy 1 2) := by decide
theorem test_decode_ld_i : decode 0b1010000001010000 = .instr (.ldINnn 0x050) := by decide
theorem test_decode_jp_v0 : decode 0b1011111111111111 = .instr (.jpV0Nnn 0xFFF) := by decide
theorem test_decode_rnd : decode 0b1100001100001111 = .instr (.rndVxKk 3 0x0F) := by decide
theorem test_decode_drw : decode 0b1101000100100011 = .instr (.drwVxVyN 1 2 3) := by decide
theorem test_decode_skp : decode 0b1110000110011110 = .instr (.skpVx 1) := by decide
theorem test_decode_sknp : decode 0b1110000110100001 = .instr (.sknpVx 1) := by decide
theorem test_decode_ld_vx_dt : decode 0b1111001000000111 = .instr (.ldVxDt 2) := by decide
theorem test_decode_ld_vx_k : decode 0b1111010000001010 = .instr (.ldVxK 4) := by decide
theorem test_decode_ld_dt_vx : decode 0b1111001000010101 = .instr (.ldDtVx 2) := by decide
theorem test_decode_ld_st_vx : decode 0b1111000000011000 = .instr (.ldStVx 0) := by decide
theorem test_decode_add_i : decode 0b1111111100011110 = .instr (.addIVx 15) := by decide
theorem test_decode_ld_f : decode 0b1111111100101001 = .instr (.ldFVx 15) := by decide
theorem test_decode_ld_b : decode 0b1111000000110011 = .instr (.ldBVx 0) := by decide
theorem test_decode_store : decode 0b1111000101010101 = .instr (.ldMemVx 1) := by decide
theorem test_decode_load : decode 0b1111001001100101 = .instr (.ldVxMem 2) := by decide

/-- V-F1 to V-F6: an illegal word of each of the five spaces (R66). -/
theorem test_decode_illegal :
    decode 0x500F = .illegal 0x500F ∧ decode 0x8018 = .illegal 0x8018 ∧ decode 0x9121 = .illegal 0x9121 ∧
      decode 0xE0A2 = .illegal 0xE0A2 ∧ decode 0xF154 = .illegal 0xF154 := by decide

/-- V-F7: words that look illegal and are not. -/
theorem test_decode_legal :
    decode 0xD120 = .instr (.drwVxVyN 1 2 0) ∧ decode 0x8AB6 = .instr (.shrVxVy 10 11) ∧
      decode 0x00C1 = .instr (.sys 0x0C1) ∧ decode 0x0000 = .instr (.sys 0) := by decide

/-- Bytes are taken two at a time, the high byte first; one byte is no instruction (R41, R61). -/
theorem test_decode_bytes :
    decodeBytes [0x22, 0x04, 0x99] = .instr (.call 0x204) [0x99] ∧ decodeBytes [0x22] = .tooShort := by decide

theorem test_table_word : decodeTableWord 16 0xF155 = some (.ldMemVx 1) ∧ decodeTableWord 16 0x5121 = none := by
  decide

/-! ### Control transfer: the vectors V-C1 to V-C27 -/

/-- V-C2 -/
theorem test_sys : one 0x00E1 id (fun t => t.pc = 0x202 && t.result = some .ok) = true := by decide
/-- V-C6 -/
theorem test_jp : one 0x1204 id (fun t => t.pc = 0x204) = true := by decide
/-- V-C9 -/
theorem test_call_last : one 0x2ABC (fun s => { s with sp := 15 })
    (fun t => t.sp = 16 && t.stack[15] = 0x202 && t.pc = 0xABC) = true := by decide
/-- V-C10 -/
theorem test_call_overflow : one 0x2ABC (fun s => { s with sp := 16 })
    (fun t => t.sp = 16 && t.pc = 0x200 && t.fault = some .stackOverflow) = true := by decide
/-- V-C12 -/
theorem test_ret : one 0x00EE (fun s => { s with sp := 1, stack := s.stack.set 0 0x345 })
    (fun t => t.sp = 0 && t.pc = 0x345 && t.stack[0] = 0x345) = true := by decide
/-- V-C11 -/
theorem test_ret_underflow : one 0x00EE id
    (fun t => t.pc = 0x200 && t.result = some (.fault .stackUnderflow)) = true := by decide
/-- V-C14 -/
theorem test_se_kk : one 0x300A (fun s => s.setReg 0 0x0A) (fun t => t.pc = 0x204) = true := by decide
/-- V-C16 -/
theorem test_sne_kk : one 0x4311 (fun s => s.setReg 3 0x10) (fun t => t.pc = 0x204) = true := by decide
/-- V-C18 -/
theorem test_se_vy : one 0x5120 (fun s => (s.setReg 1 7).setReg 2 7) (fun t => t.pc = 0x204) = true := by decide
/-- V-C21 -/
theorem test_sne_vy : one 0x9120 (fun s => (s.setReg 1 7).setReg 2 8) (fun t => t.pc = 0x204) = true := by decide
/-- V-C25 -/
theorem test_jp_v0_unmasked : one 0xBFFF (fun s => s.setReg 0 0xFF) (fun t => t.pc = 0x10FE) = true := by decide
/-- V-C27 -/
theorem test_jp_v0_not_vx : one 0xB1F0 (fun s => s.setReg 1 0x55) (fun t => t.pc = 0x1F0) = true := by decide

/-! ### Loads, ALU and random: the vectors V-A1 to V-A55 -/

/-- V-A1 -/
theorem test_ld_kk : one 0x6F12 (fun s => s.setReg 15 1) (fun t => t.reg 15 = 0x12) = true := by decide
/-- V-A3 -/
theorem test_add_kk : one 0x7001 (fun s => (s.setReg 0 0xFF).setReg 15 1)
    (fun t => t.reg 0 = 0 && t.reg 15 = 1) = true := by decide
/-- V-A2 -/
theorem test_add_kk_vf : one 0x7FFF (fun s => s.setReg 15 2) (fun t => t.reg 15 = 1) = true := by decide
/-- V-A7 -/
theorem test_ld_vy : one 0x80F0 (fun s => s.setReg 15 0x77) (fun t => t.reg 0 = 0x77) = true := by decide
/-- V-A8 -/
theorem test_or : one 0x8011 (fun s => ((s.setReg 0 0xF0).setReg 1 0x0F).setReg 15 0x5A)
    (fun t => t.reg 0 = 0xFF && t.reg 15 = 0x5A) = true := by decide
/-- V-A11 -/
theorem test_and : one 0x8012 (fun s => (s.setReg 0 0xF3).setReg 1 0x3F) (fun t => t.reg 0 = 0x33) = true := by decide
/-- V-A13 -/
theorem test_xor : one 0x8013 (fun s => (s.setReg 0 0xFF).setReg 1 0x0F) (fun t => t.reg 0 = 0xF0) = true := by decide
/-- V-A15 -/
theorem test_add_no_carry : one 0x8014 (fun s => ((s.setReg 0 0xFE).setReg 1 1).setReg 15 1)
    (fun t => t.reg 0 = 0xFF && t.reg 15 = 0) = true := by decide
/-- V-A20 -/
theorem test_add_old_vf : one 0x81F4 (fun s => (s.setReg 1 0xF0).setReg 15 0x20)
    (fun t => t.reg 1 = 0x10 && t.reg 15 = 1) = true := by decide
/-- V-A25 -/
theorem test_sub_equal : one 0x8015 (fun s => (s.setReg 0 7).setReg 1 7)
    (fun t => t.reg 0 = 0 && t.reg 15 = 1) = true := by decide
/-- V-A28 -/
theorem test_sub_vf : one 0x8F15 (fun s => (s.setReg 15 1).setReg 1 2) (fun t => t.reg 15 = 0) = true := by decide
/-- V-A33 -/
theorem test_shr : one 0x82A6 (fun s => (s.setReg 2 5).setReg 10 0xEE)
    (fun t => t.reg 2 = 2 && t.reg 10 = 0xEE && t.reg 15 = 1) = true := by decide
/-- V-A36 -/
theorem test_shr_logical : one 0x8006 (fun s => s.setReg 0 0x80)
    (fun t => t.reg 0 = 0x40 && t.reg 15 = 0) = true := by decide
/-- V-A40 -/
theorem test_subn : one 0x8017 (fun s => (s.setReg 0 7).setReg 1 5)
    (fun t => t.reg 0 = 0xFE && t.reg 15 = 0) = true := by decide
/-- V-A45 -/
theorem test_shl : one 0x820E (fun s => s.setReg 2 0x81) (fun t => t.reg 2 = 2 && t.reg 15 = 1) = true := by decide
/-- V-A49 -/
theorem test_shl_vf : one 0x8F0E (fun s => s.setReg 15 0x7F) (fun t => t.reg 15 = 0) = true := by decide
/-- V-A50: the host has fixed the byte 0xA7 for this step. -/
theorem test_rnd : one 0xC30F (fun s => { s with rngFeed := [0xA7] })
    (fun t => t.reg 3 = 7 && t.rngFeed = []) = true := by decide

/-! ### Index and memory: the vectors V-M1 to V-M23 -/

/-- V-M2 -/
theorem test_ld_i : one 0xAFFF (fun s => s.setI 0x123) (fun t => t.i = 0xFFF) = true := by decide
/-- V-M3 -/
theorem test_add_i : one 0xF01E (fun s => (s.setI 0xFFE).setReg 0 5)
    (fun t => t.i = 0x003 && t.reg 15 = 1) = true := by decide
/-- V-M9 -/
theorem test_add_i_vf : one 0xFF1E (fun s => (s.setI 0x100).setReg 15 9)
    (fun t => t.i = 0x109 && t.reg 15 = 0) = true := by decide
/-- V-M11 -/
theorem test_ld_f : one 0xF029 (fun s => s.setReg 0 0x1A) (fun t => t.i = 0x082) = true := by decide
/-- V-M12 -/
theorem test_bcd : one 0xF033 (fun s => (s.setI 0x300).setReg 0 0xFE)
    (fun t => t.memRead 0x300 = 2 && t.memRead 0x301 = 5 && t.memRead 0x302 = 4) = true := by decide
/-- V-M15 -/
theorem test_bcd_wrap : one 0xF033 (fun s => (s.setI 0xFFF).setReg 0 0x7B)
    (fun t => t.memRead 0xFFF = 1 && t.memRead 0 = 2 && t.memRead 1 = 3) = true := by decide
/-- V-M16 -/
theorem test_store : one 0xF155 (fun s => ((s.setI 0x300).setReg 0 0x12).setReg 2 0x99)
    (fun t => t.memRead 0x300 = 0x12 && t.memRead 0x302 = 0 && t.i = 0x300) = true := by decide
/-- V-M19 -/
theorem test_store_font : one 0xF055 (fun s => (s.setI 0x050).setReg 0 0xAB)
    (fun t => t.memRead 0x050 = 0xAB && t.memRead 0x051 = 0x90) = true := by decide
/-- V-M21 -/
theorem test_load : one 0xF265 (fun s => (putBytes 0x300 [2, 5, 4, 9] (s.setI 0x300)).setReg 3 0x44)
    (fun t => t.reg 2 = 4 && t.reg 3 = 0x44 && t.i = 0x300) = true := by decide
/-- V-M22 -/
theorem test_load_wrap : one 0xF265 (fun s => putBytes 0xFFF [0x11] (putBytes 0 [0x22, 0x33] (s.setI 0xFFF)))
    (fun t => t.reg 0 = 0x11 && t.reg 1 = 0x22 && t.reg 2 = 0x33) = true := by decide

/-! ### Display: the vectors V-D1 to V-D15 -/

/-- V-D15 -/
theorem test_cls : one 0x00E0 (fun s => (lit 63 31 { s with draw := false }).setReg 15 9)
    (fun t => t.fb = Vector.replicate 32 0 && t.draw && t.reg 15 = 9) = true := by decide
/-- V-D2: the rows of the framebuffer that are lit afterwards, and no collision. -/
theorem test_drw_clips : one 0xD123
    (fun s => putBytes 0x300 [0xFF, 0x81, 0xFF] (((s.setI 0x300).setReg 1 0x7E).setReg 2 0x3E))
    (fun t => t.fb = ((Vector.replicate 32 0#64).set 30 (0b11#64 <<< 62)).set 31 (1#64 <<< 62) && t.reg 15 = 0)
      = true := by decide
/-- V-D5 -/
theorem test_drw_collides : one 0xD011 (fun s => lit 1 0 (lit 2 0 (putBytes 0x300 [0xC0] (s.setI 0x300))))
    (fun t => t.fb[0] = 0b101 && t.reg 15 = 1 && t.draw) = true := by decide

/-! ### Keypad and timers: the vectors V-K1 to V-K20 -/

/-- V-K5 -/
theorem test_skp : one 0xE19E (fun s => (s.setReg 1 0x15).setKey 5 true) (fun t => t.pc = 0x204) = true := by decide
/-- V-K4 -/
theorem test_sknp : one 0xE1A1 (fun s => (s.setReg 1 5).setKey 5 true) (fun t => t.pc = 0x202) = true := by decide
/-- V-K10 -/
theorem test_ld_k : one 0xF40A (fun s => ((s.setKey 3 true).setKey 9 true).setKey 15 true)
    (fun t => t.reg 4 = 3 && t.pc = 0x202) = true := by decide
/-- V-K8 -/
theorem test_ld_k_waits : one 0xF00A id (fun t => t.pc = 0x200 && t.result = some .waitingForKey) = true := by decide
/-- V-K14 -/
theorem test_ld_vx_dt : one 0xFF07 (fun s => { s with dt := 0x80 }) (fun t => t.reg 15 = 0x80) = true := by decide
/-- V-K15 -/
theorem test_ld_dt_vx : one 0xF215 (fun s => s.setReg 2 0x3C) (fun t => t.dt = 0x3C) = true := by decide
/-- V-K17 -/
theorem test_ld_st_vx : one 0xF018 (fun s => s.setReg 0 2) (fun t => t.st = 2 && t.beep) = true := by decide
/-- V-K18, the first tick -/
theorem test_tick : nextIs (performOp .tickTimers { State.reset with dt := 2, st := 1 })
    (fun t => t.dt = 1 && t.st = 0 && !t.beep) = true := by decide
/-- V-K18, the third tick -/
theorem test_tick_saturates : nextIs (performOp .tickTimers State.reset) (fun t => t.dt = 0 && t.st = 0) = true := by
  decide
/-- V-K19 -/
theorem test_set_key : nextIs (performOp (.setKey 7 true) State.reset)
    (fun t => t.keyDown 7 && !t.keyDown 6) = true := by decide
/-- V-K20 -/
theorem test_present_ack : nextIs (performOp .presentAck State.reset) (fun t => !t.draw) = true := by decide

/-! ### Faults, reset and load: the vectors V-F1 to V-F16 and V-R1 to V-R5 -/

/-- V-F1 -/
theorem test_illegal : one 0x5121 id
    (fun t => t.pc = 0x200 && t.fault = some (.illegalOpcode 0x5121)) = true := by decide
/-- V-F8: a second step repeats the fault and writes nothing. -/
theorem test_halted : one 0x6012 (fun s => { s with fault := some (.illegalOpcode 0x5121) })
    (fun t => t.reg 0 = 0 && t.result = some (.fault (.illegalOpcode 0x5121))) = true := by decide
/-- V-F9 -/
theorem test_skip_past_the_end : nextIs (stepOne (placed 0xFFE 0x3000)) (fun t => t.pc = 0x1002) = true := by decide
/-- V-F12, the next step -/
theorem test_bad_pc : nextIs (stepOne { State.reset with pc := 0xFFF })
    (fun t => t.pc = 0xFFF && t.fault = some .badPC) = true := by decide
/-- V-F14: an odd `PC` -/
theorem test_odd_pc : nextIs (stepOne (placed 0x201 0x612A)) (fun t => t.reg 1 = 0x2A && t.pc = 0x203) = true := by
  decide
/-- V-R4 -/
theorem test_load_rom : nextIs (performOp (.load [0x60, 0x05, 0x70]) State.reset)
    (fun t => t.memRead 0x200 = 0x60 && t.memRead 0x202 = 0x70 && t.memRead 0x203 = 0) = true := by decide
/-- V-R5: the second load leaves nothing of the first program. -/
theorem test_load_again : nextIs (performOp (.load [0x12, 0x00])
      { putBytes 0x300 [0xFF] (State.reset.load [0x60, 0xFF, 0xF0, 0x15]) with dt := 0xFF, i := 0x300 })
    (fun t => t.memRead 0x202 = 0 && t.memRead 0x300 = 0 && t.memRead 0x050 = 0xF0 && t.dt = 0 && t.i = 0) = true := by
  decide
/-- R185: a read failure of the host's loader leaves the core untouched. -/
theorem test_rom_read_failed : nextIs (performOp .romReadFailed State.reset)
    (fun t => t.fault = none && t.pc = 0x200 && t.result = some (.fault .romReadFailed)) = true := by decide
/-- R160: the codes. -/
theorem test_fault_codes :
    [none, some .romTooLarge, some .romReadFailed, some .stackOverflow, some .stackUnderflow, some .badPC,
      some (.illegalOpcode 0x5121)].map faultCode = [0, 1, 2, 3, 4, 5, 6] := by decide
/-- The word placed for the host's question is the one the very next step runs. -/
theorem test_with_fetch_word : nextIs (step (State.reset.withFetchWord 16 0x632A)) (fun t => t.reg 3 = 0x2A) = true := by
  decide
/-- After a bare reset the first step runs SYS 0 (R190). -/
theorem test_bare_reset : nextIs (step State.reset) (fun t => t.pc = 0x202 && t.result = some .ok) = true := by decide

/-! ### Witnesses: states and operands that meet the hypotheses of the statements -/

/-- A state with room for everything: values at the boundaries of their ranges. -/
def edge : State :=
  { putBytes 0xFFE [0xF1, 0x55] State.reset with
    i := 0xFFF, pc := 0xFFE, sp := 16, stack := Vector.replicate 16 0x1000, v := Vector.replicate 16 0xFF,
    dt := 0xFF, st := 1, keys := Vector.replicate 16 true }

theorem edge_inv : edge.Inv := ⟨by decide, by decide, by decide, by decide⟩

/-- `PC` and a stack entry at the top of what the invariant allows, and a font cell overwritten. -/
theorem witness_inv_top :
    { putBytes 0x050 [0xAB] State.reset with pc := 0x10FE, stack := Vector.replicate 16 0x002 }.Inv :=
  ⟨by decide, by decide, by decide, by decide⟩

/-- DecodeOfEncodeIsIdentity, at both ends of an operand's range. -/
theorem witness_DecodeOfEncodeIsIdentity :
    (Instr.sys 0xFFF).wf = true ∧ (Instr.sys 0).wf = true ∧ (Instr.drwVxVyN 15 15 15).wf = true := by decide

theorem witness_EncodeOfDecodeIsIdentity :
    decode 0x0FFF = .instr (.sys 0xFFF) ∧ decode 0xFF65 = .instr (.ldVxMem 15) := by decide

/-- OpcodeMapByMaskAndMatch: both sides at SYS, where the priority of R64 matters, and at the last word of a row. -/
theorem witness_OpcodeMapByMaskAndMatch :
    (0x00EF &&& (rowOf (.sys 0x0EF)).1 = (rowOf (.sys 0x0EF)).2 ∧ operandsOf 0x00EF (.sys 0x0EF) ∧
      ((∃ nnn, Instr.sys 0x0EF = .sys nnn) → (0x00EF : Word16) ≠ 0x00E0 ∧ (0x00EF : Word16) ≠ 0x00EE)) ∧
    decode 0x00EF = .instr (.sys 0x0EF) := by
  refine ⟨⟨by decide, by show _ = _; decide, fun _ => by decide⟩, by decide⟩

/-- IllegalWordsAreThoseOfTheTable: an illegal word of each space, and the legal words beside them. -/
theorem witness_IllegalWordsAreThoseOfTheTable :
    (illegalWord 0x5001 ∧ illegalWord 0x8008 ∧ illegalWord 0x8FFF ∧ illegalWord 0x9FFF ∧ illegalWord 0xE09D ∧
      illegalWord 0xFFFF) ∧
    ¬ illegalWord 0x5000 ∧ ¬ illegalWord 0x8007 ∧ ¬ illegalWord 0x800E ∧ ¬ illegalWord 0xEFA1 ∧
      ¬ illegalWord 0xFF65 := by
  refine ⟨⟨?_, ?_, ?_, ?_, ?_, ?_⟩, ?_, ?_, ?_, ?_, ?_⟩ <;> unfold illegalWord <;> decide

theorem witness_EveryStepKeepsInvariant : edge.Inv ∧ ∃ t, step edge = .next t := ⟨edge_inv, _, rfl⟩

/-- LoadCopiesTheRomOrFails: the boundary lengths of R193. -/
theorem witness_LoadCopiesTheRomOrFails :
    (List.replicate 3584 (1 : Byte)).length ≤ 3584 ∧ 3584 < (List.replicate 3585 (1 : Byte)).length := by
  simp only [List.length_replicate]
  decide

/-- EqualMemoriesAreEqualData: two ways to the same bytes. -/
theorem witness_EqualMemoriesAreEqualData :
    (Memory.write (Memory.write [] 0xFFF 7) 0 5).wf = true ∧ (Memory.write (Memory.write [] 0 5) 0xFFF 7).wf = true ∧
      ∀ a : Addr, (Memory.write (Memory.write [] 0xFFF 7) 0 5).read a.toNat =
        (Memory.write (Memory.write [] 0 5) 0xFFF 7).read a.toNat := by
  refine ⟨by decide, by decide, fun a => ?_⟩
  have e : Memory.write (Memory.write [] 0xFFF 7) 0 5 = Memory.write (Memory.write [] 0 5) 0xFFF 7 := by decide
  rw [e]

/-- StepRunsTheDecodedInstruction, at the last address a word can be fetched from; with nothing pending, with a
`step_one` pending, with another operation pending. -/
theorem witness_StepRunsTheDecodedInstruction :
    edge.fault = none ∧ edge.pc.toNat ≤ 0xFFE ∧
      decode (wordOfBytes (edge.memRead (BitVec.ofNat 12 edge.pc.toNat))
        (edge.memRead (BitVec.ofNat 12 (edge.pc.toNat + 1)))) = .instr (.ldMemVx 1) ∧
      edge.pending = [] ∧
      { edge with pending := [.stepOne, .reset] }.pending = .stepOne :: [.reset] ∧
      { edge with pending := [.tickTimers] }.pending = .tickTimers :: [] := by decide

/-- FetchAbove0xFFEFaultsBadPC: each clause, at its boundary. -/
theorem witness_FetchAbove0xFFEFaultsBadPC :
    (State.reset.fault = none ∧ 0xFFE < { State.reset with pc := 0xFFF }.pc.toNat) ∧
    (edge.fault = none ∧ edge.pc.toNat ≤ 0xFFE ∧ edge.pc = 0xFFE ∧ ∃ t, stepOne edge = .next t) :=
  ⟨by decide, by decide, by decide, by decide, _, rfl⟩

theorem witness_IllegalWordFaultsAtItsAddress :
    (placed 0xFFE 0x5121).fault = none ∧ (placed 0xFFE 0x5121).pc.toNat ≤ 0xFFE ∧
      illegalWord (placed 0xFFE 0x5121).fetchWord := by
  unfold illegalWord
  decide

/-- FaultsComeOnlyFromTheirSources and FaultsArePrecise: a step that latches each of the four faults. -/
theorem witness_FaultsComeOnlyFromTheirSources :
    (∃ t, stepOne { State.reset with pc := 0xFFF } = .next t ∧ t.fault = some .badPC) ∧
    (∃ t, stepOne (placed 0xFFE 0x5121) = .next t ∧ t.fault = some (.illegalOpcode 0x5121)) ∧
    (∃ t, stepOne { placed 0xFFE 0x2ABC with sp := 16 } = .next t ∧ t.fault = some .stackOverflow) ∧
    (∃ t, stepOne (placed 0xFFE 0x00EE) = .next t ∧ t.fault = some .stackUnderflow) :=
  ⟨⟨_, rfl, by decide⟩, ⟨_, rfl, by decide⟩, ⟨_, rfl, by decide⟩, ⟨_, rfl, by decide⟩⟩

theorem witness_FaultsArePrecise :
    (placed 0x200 0x5121).fault = none ∧ (placed 0x200 0x00EE).fault = none ∧
      { placed 0x200 0x2ABC with sp := 16 }.fault = none ∧ { State.reset with pc := 0xFFFF }.fault = none := by decide

/-- HaltedUntilResetOrLoad: the latch of a fault, and an operation that goes on. -/
theorem witness_HaltedUntilResetOrLoad :
    { State.reset with fault := some .badPC }.fault = some .badPC ∧
      ∃ t, performOp .tickTimers { State.reset with fault := some .badPC } = .next t := ⟨rfl, _, rfl⟩

/-- StepStopsExactlyWhenHaltedForGood: halted with nothing pending; halted with a reset pending; not halted. -/
theorem witness_StepStopsExactlyWhenHaltedForGood :
    (({ State.reset with fault := some .badPC }.fault = some .badPC) ∧
      { State.reset with fault := some .badPC }.pending = []) ∧
    { State.reset with fault := some .badPC, pending := [.reset] }.pending ≠ [] ∧ State.reset.fault = none := by decide

/-- WaitingMeansTheStepChangesNothing: a waiting state, and one that a key has released. -/
theorem witness_WaitingMeansTheStepChangesNothing :
    (placed 0xFFE 0xF00A).fault = none ∧ (placed 0xFFE 0xF00A).condition = .waiting ∧
      ((placed 0xFFE 0xF00A).setKey 15 true).condition = .running := by decide

/-- StepLatchesNoFaultOnALegalWord: the hypotheses, with the conditions met at their boundaries (a CALL at the last
address with one free cell, a RET with one address held), and each of the four conditions missed. -/
theorem witness_StepLatchesNoFaultOnALegalWord :
    ({ placed 0xFFE 0x2ABC with sp := 15 }.fault = none ∧ { placed 0xFFE 0x2ABC with sp := 15 }.pending = [] ∧
      { placed 0xFFE 0x2ABC with sp := 15 }.pc.toNat ≤ 0xFFE ∧
      ¬ illegalWord { placed 0xFFE 0x2ABC with sp := 15 }.fetchWord) ∧
    ({ placed 0x200 0x00EE with sp := 1 }.fetchWord = 0x00EE ∧ { placed 0x200 0x00EE with sp := 1 }.sp.val ≠ 0) ∧
    (¬ { State.reset with pc := 0xFFF }.pc.toNat ≤ 0xFFE) ∧ illegalWord (placed 0x200 0x5121).fetchWord ∧
    ({ placed 0x200 0x2FFF with sp := 16 }.fetchWord.toNat / 0x1000 = 2 ∧
      { placed 0x200 0x2FFF with sp := 16 }.sp.val = 16) ∧
    ((placed 0x200 0x00EE).fetchWord = 0x00EE ∧ (placed 0x200 0x00EE).sp.val = 0) := by
  refine ⟨⟨rfl, rfl, by decide, by unfold illegalWord; decide⟩, by decide, by decide, by unfold illegalWord; decide,
    by decide, by decide⟩

/-- ZeroedMemoryIsWalkedThrough: reset memory from 0x200 to its end. -/
theorem witness_ZeroedMemoryIsWalkedThrough :
    State.reset.fault = none ∧ State.reset.pending = [] ∧ State.reset.pc.toNat + 2 * 1792 ≤ 0x1000 ∧
      ∀ a : Addr, State.reset.pc.toNat ≤ a.toNat → a.toNat < State.reset.pc.toNat + 2 * 1792 →
        State.reset.memRead a = 0 := by
  refine ⟨rfl, rfl, by decide, fun a h _ => ?_⟩
  have h2 : 0x200 ≤ a.toNat := h
  show resetByte a.toNat = 0
  unfold resetByte
  have hl : font.length = 80 := by decide
  rw [if_pos (by unfold Config.fontBase; omega), List.getD_eq_default _ _ (by unfold Config.fontBase; omega)]
  rfl

theorem witness_SysOnlyAdvancesPC :
    (0 : Addr) ≠ 0x0E0 ∧ (0 : Addr) ≠ 0x0EE ∧ (0x0EF : Addr) ≠ 0x0E0 ∧ (0xFFF : Addr) ≠ 0x0EE := by decide

/-- CallPushesTheReturnAddress: the last free cell, and the full stack. -/
theorem witness_CallPushesTheReturnAddress :
    { State.reset with sp := 15 }.sp.val ≠ 16 ∧ State.reset.sp.val ≠ 16 ∧ edge.sp.val = 16 := by decide

/-- CallThenRetReturns: an empty stack, and one free cell. -/
theorem witness_CallThenRetReturns : State.reset.sp.val ≠ 16 ∧ { edge with sp := 15 }.sp.val ≠ 16 := by decide

/-- RetPopsThePC: one address held, sixteen, none. -/
theorem witness_RetPopsThePC :
    { State.reset with sp := 1 }.sp.val = (0 : Fin 16).val + 1 ∧ edge.sp.val = (15 : Fin 16).val + 1 ∧
      State.reset.sp.val = 0 := by decide

/-- The VF-writers of the ALU: a destination that is not VF. -/
theorem witness_destination_not_VF : (0 : Reg) ≠ 15 ∧ (14 : Reg) ≠ 15 := by decide

/-- RandomIsOneMaskedByteOfThePort: a byte fixed by the host, and none. -/
theorem witness_RandomIsOneMaskedByteOfThePort :
    { State.reset with rngFeed := [0xA7, 0x5C] }.rngFeed = 0xA7 :: [0x5C] ∧ State.reset.rngFeed = [] := by decide

/-- BcdStoresThreeDigits: a canonical RAM whose base address wraps, and an address that is not stored to. -/
theorem witness_BcdStoresThreeDigits :
    edge.ram.wf = true ∧ ∀ k < 3, (0x002 : Addr) ≠ edge.ea k := by
  refine ⟨by decide, ?_⟩
  decide

/-- StoreRegistersAtI, StoredRegistersLoadBack: all sixteen registers, and one, with addresses beyond them. -/
theorem witness_StoreRegistersAtI :
    edge.ram.wf = true ∧ ((15 : Reg) ≤ 15 ∧ (0 : Reg) ≤ 0) ∧ (∀ k < 15 + 1, (0x00F : Addr) ≠ edge.ea k) ∧
      ∀ k < 0 + 1, (0x000 : Addr) ≠ edge.ea k := by
  refine ⟨by decide, by decide, ?_, ?_⟩ <;> decide

theorem witness_LoadRegistersFromI : (0 : Reg) ≤ 0 ∧ (15 : Reg) ≤ 15 ∧ ¬ (1 : Reg) ≤ 0 := by decide

/-- FetchSeesStoredInstruction: the last pair of addresses a word can be fetched from, and the pair after a wrap. -/
theorem witness_FetchSeesStoredInstruction :
    edge.ram.wf = true ∧ (2 : Reg) ≤ 2 ∧ (2 : Reg).val = (1 : Reg).val + 1 ∧ (edge.ea (1 : Reg).val).toNat ≤ 0xFFE ∧
      ({ edge with i := 0xFFE }.ea (0 : Reg).val).toNat = 0xFFE := by decide

/-- The sprite byte 0xC0 at 0x300, and pixel (1, 0) lit. -/
def drawn : State := lit 1 0 (putBytes 0x300 [0xC0] (State.reset.setI 0x300))

/-- DrawXorsTheClippedSprite: a draw that collides (V-D5) and one that does not; the corner of the display. -/
theorem witness_DrawXorsTheClippedSprite :
    (∃ X Y, onDisplay X Y ∧ drawn.pixel X Y = true ∧
      spriteAt drawn ((drawn.reg 0).toNat % 64) ((drawn.reg 1).toNat % 32) 1 X Y) ∧
    (¬ ∃ X Y, onDisplay X Y ∧ drawn.pixel X Y = true ∧
      spriteAt drawn ((drawn.reg 0).toNat % 64) ((drawn.reg 1).toNat % 32) 0 X Y) ∧
    onDisplay 63 31 ∧ ¬ onDisplay 64 31 ∧ ¬ onDisplay 63 32 := by
  refine ⟨⟨1, 0, by unfold onDisplay; decide, by decide, by unfold spriteAt; decide⟩, ?_, ?_, ?_, ?_⟩
  · rintro ⟨X, Y, _, _, hs⟩
    unfold spriteAt at hs
    omega
  all_goals unfold onDisplay; decide

/-- DrawingTwiceRestoresTheScreen: a draw after which the registers still give the same start. -/
theorem witness_DrawingTwiceRestoresTheScreen :
    ∃ t, exec (.drwVxVyN 0 1 1) drawn = .next t ∧ (t.reg 0).toNat % 64 = (drawn.reg 0).toNat % 64 ∧
      (t.reg 1).toNat % 32 = (drawn.reg 1).toNat % 32 := ⟨_, rfl, by decide, by decide⟩

/-- GlyphAddressHoldsTheGlyph: a state whose font is intact and whose other memory is not. -/
theorem witness_GlyphAddressHoldsTheGlyph :
    ∀ a : Addr, 0x050 ≤ a.toNat → a.toNat ≤ 0x09F → edge.memRead a = State.reset.memRead a := by
  intro a _ h
  show Memory.read (Memory.write (Memory.write State.reset.ram 0xFFE 0xF1) 0xFFF 0x55) a.toNat = _
  rw [Memory.read_write_of_ne (by omega), Memory.read_write_of_ne (by omega)]
  rfl

/-- SkipsOnAKey: a key number above 15 names the key of its low nibble (D6). -/
theorem witness_SkipsOnAKey :
    (15 : Fin 16).val = (edge.reg 0).toNat &&& 0x0F ∧ (0 : Fin 16).val = (State.reset.reg 0).toNat &&& 0x0F := by decide

/-- KeyWaitTakesTheLowestKey: key 0 down; only key 15 down; no key down. -/
theorem witness_KeyWaitTakesTheLowestKey :
    (edge.keyDown 0 = true ∧ ∀ j < (0 : Fin 16), edge.keyDown j = false) ∧
    ((State.reset.setKey 15 true).keyDown 15 = true ∧
      ∀ j < (15 : Fin 16), (State.reset.setKey 15 true).keyDown j = false) ∧
    ∀ k, State.reset.keyDown k = false := by decide

/-- OnlyFlagWritersTouchVF: a VF-writer, an instruction with another destination, one whose destination is VF. -/
theorem witness_OnlyFlagWritersTouchVF :
    (∃ t, exec (.subVxVy 15 0) edge = .next t) ∧ writesFlag (.subVxVy 15 0) ∧
    (∃ t, exec (.ldVxMem 14) edge = .next t) ∧ ¬ writesFlag (.ldVxMem 14) ∧ ¬ destIsVF (.ldVxMem 14) ∧
    destIsVF (.ldVxMem 15) := by
  refine ⟨⟨_, rfl⟩, trivial, ⟨_, rfl⟩, id, ?_, ?_⟩ <;> simp [destIsVF]

/-- EveryInstructionChangesPCByTheTable: one that completes with a popped entry, one that faults, one that waits. -/
theorem witness_EveryInstructionChangesPCByTheTable :
    (∃ t, exec .ret edge = .next t ∧ t.result = some .ok) ∧
    (∀ k : Fin 16, edge.sp.val = k.val + 1 → (0x1000 : Word16) = edge.stack[k]) ∧
    (∃ t, exec (.call 0x300) edge = .next t ∧ t.result ≠ some .ok) ∧
    (∃ t, exec (.ldVxK 0) State.reset = .next t ∧ t.result = some .waitingForKey) :=
  ⟨⟨_, rfl, by decide⟩, by decide, ⟨_, rfl, by decide⟩, ⟨_, rfl, by decide⟩⟩

theorem witness_EveryInstructionWritesOnlyWhatItsRuleNames :
    (∃ t, exec (.ldMemVx 15) edge = .next t) ∧ (∃ t, exec (.rndVxKk 3 0xFF) edge = .next t) ∧
      ∃ t, exec (.drwVxVyN 15 0 15) edge = .next t := ⟨⟨_, rfl⟩, ⟨_, rfl⟩, ⟨_, rfl⟩⟩

/-- InstructionsReadOnlyTheirDevices: an instruction that reads none of the three. -/
theorem witness_InstructionsReadOnlyTheirDevices :
    (∀ x, Instr.cls ≠ .skpVx x ∧ Instr.cls ≠ .sknpVx x ∧ Instr.cls ≠ .ldVxK x) ∧ (∀ x, Instr.cls ≠ .ldVxDt x) ∧
      ∀ x y n, Instr.cls ≠ .drwVxVyN x y n := by
  refine ⟨fun x => ⟨?_, ?_, ?_⟩, fun x => ?_, fun x y n => ?_⟩ <;> exact Instr.noConfusion

end Sys2Proof.Tests
end

section
/-! The state after reset (10_state.md rule R26): what each read of it returns, and the obligation on it. -/

namespace Sys2Proof.Machine

open Sys2Proof.Claims

/-! ### The reset contents of RAM -/

theorem font_length : font.length = 80 := by decide

/-- R25, R40: the font stands at 0x050 to 0x09F and every other byte is 0; above 0x09F the table has run out. -/
theorem resetByte_eq (a : Nat) :
    resetByte a = if 0x050 ≤ a ∧ a ≤ 0x09F then font.getD (a - 0x050) 0#8 else 0#8 := by
  unfold resetByte Config.fontBase
  by_cases hbase : 0x050 ≤ a
  · by_cases hwithin : a ≤ 0x09F
    · rw [if_pos hbase, if_pos ⟨hbase, hwithin⟩]
    · have hout : font.length ≤ a - 0x050 := by rw [font_length]; omega
      rw [if_pos hbase, List.getD_eq_default _ _ hout, if_neg fun h => hwithin h.2]
  · rw [if_neg hbase, if_neg fun h => hbase h.1]

/-! ### Reading the state after reset -/

@[simp] theorem State.memRead_reset (a : Addr) : State.reset.memRead a = resetByte a.toNat := rfl

@[simp] theorem State.reg_reset (r : Reg) : State.reset.reg r = 0 := by
  simp [State.reg, State.reset]

@[simp] theorem State.stack_reset (k : Fin 16) : State.reset.stack[k] = 0 := by
  simp [State.reset]

@[simp] theorem State.keyDown_reset (k : Fin 16) : State.reset.keyDown k = false := by
  simp [State.keyDown, State.reset]

/-- No pixel is lit, on the display or off it. -/
@[simp] theorem State.pixel_reset (X Y : Nat) : State.reset.pixel X Y = false := by
  unfold State.pixel pixelOf
  split <;> simp [State.reset]

/-! ### Every item at its reset value -/

theorem atReset_reset : atReset State.reset :=
  ⟨fun a => resetByte_eq a.toNat, State.reg_reset, rfl, rfl, State.stack_reset, rfl, State.pixel_reset,
    State.keyDown_reset, rfl, rfl, rfl, rfl⟩

/-- `reset()` differs from the state after reset only in the pending operations and the RNG port (R181), which are
not among the items of R26. -/
theorem atReset_doReset (s : State) : atReset s.doReset := atReset_reset

theorem performOp_reset (s : State) : performOp .reset s = .next s.doReset := rfl

/-- Settles O6: the core's reset state item by item, and `reset()` from any state by what it keeps of that state. -/
theorem resetPutsEveryItemAtItsValue : Obligations.ResetPutsEveryItemAtItsValue :=
  ⟨font_length, atReset_reset, fun s => ⟨s.doReset, performOp_reset s, atReset_doReset s⟩⟩

end Sys2Proof.Machine
end

section
/-! Fetch (20_memory.md rule R42): how an executed instruction can end, by R161 never with `BadPC`; the fetch that
faults and the fetch at the last address; and the obligation on them. -/

namespace Sys2Proof.Machine

open Sys2Proof.Claims

variable {s t u : State}

/-! ### How an executed instruction ends (R161) -/

/-- An instruction has completed: it returned `Ok` and left the latch alone. -/
def State.CompletesTo (s t : State) : Prop := t.result = some .ok ∧ t.fault = s.fault

/-- An instruction that ends normally in a state whose latch is still that of `s` completes. -/
theorem State.completesTo_of_finish {p : Word16} (h : u.finish p = .next t) (hu : u.fault = s.fault) :
    s.CompletesTo t := by
  cases h
  exact ⟨rfl, hu⟩

/-- CALL faults on a full stack, and else completes (R81). -/
theorem execCall_next_cases {nnn : Addr} (h : execCall nnn s = .next t) :
    s.CompletesTo t ∨ (s.sp.val = 16 ∧ t = s.latched .stackOverflow) := by
  unfold execCall at h
  split at h
  next hpush =>
    cases h
    exact .inr ⟨State.push_eq_none_iff.mp hpush, rfl⟩
  next hpush =>
    obtain ⟨-, -, -, hframe⟩ := State.push_eq_some hpush
    exact .inl (State.completesTo_of_finish h (by rw [hframe]))

/-- RET faults on an empty stack, and else completes (R82). -/
theorem execRet_next_cases (h : execRet s = .next t) :
    s.CompletesTo t ∨ (s.sp.val = 0 ∧ t = s.latched .stackUnderflow) := by
  unfold execRet at h
  split at h
  next hpop =>
    cases h
    exact .inr ⟨State.pop_eq_none_iff.mp hpop, rfl⟩
  next hpop =>
    obtain ⟨-, -, -, hframe⟩ := State.pop_eq_some hpop
    exact .inl (State.completesTo_of_finish h (by rw [hframe]))

/-- Fx0A waits while no key is down, and else completes (R148). -/
theorem execLdVxK_next_cases {x : Reg} (h : execLdVxK x s = .next t) :
    s.CompletesTo t ∨ (s.lowestKey = none ∧ t = s.answering .waitingForKey) := by
  unfold execLdVxK at h
  split at h
  next hkey =>
    cases h
    exact .inr ⟨hkey, rfl⟩
  next => exact .inl (State.completesTo_of_finish h rfl)

/-- The four ways an executed instruction ends (R161): every instruction completes, but that Fx0A may wait, and CALL
and RET may fault. -/
theorem exec_next_cases {i : Instr} (h : exec i s = .next t) :
    s.CompletesTo t ∨
    (∃ x, i = .ldVxK x ∧ s.lowestKey = none ∧ t = s.answering .waitingForKey) ∨
    (∃ nnn, i = .call nnn ∧ s.sp.val = 16 ∧ t = s.latched .stackOverflow) ∨
    (i = .ret ∧ s.sp.val = 0 ∧ t = s.latched .stackUnderflow) := by
  cases i
  case call nnn => exact (execCall_next_cases h).imp_right fun hfull => .inr (.inl ⟨nnn, rfl, hfull⟩)
  case ret => exact (execRet_next_cases h).imp_right fun hempty => .inr (.inr ⟨rfl, hempty⟩)
  case ldVxK x => exact (execLdVxK_next_cases h).imp_right fun hwait => .inl ⟨x, rfl, hwait⟩
  case rndVxKk x kk => exact .inl (State.completesTo_of_finish h s.drawRnd_fault)
  all_goals exact .inl (State.completesTo_of_finish h rfl)

/-- No instruction latches `BadPC`: that fault is raised before an instruction is known (R161). -/
theorem exec_fault_ne_badPC {i : Instr} (hf : s.fault ≠ some .badPC) (h : exec i s = .next t) :
    t.fault ≠ some .badPC := by
  rcases exec_next_cases h with ⟨-, hkept⟩ | ⟨_, -, -, rfl⟩ | ⟨_, -, -, rfl⟩ | ⟨-, -, rfl⟩
  · rwa [hkept]
  · simpa using hf
  · simp
  · simp

/-! ### Fetch at the end of memory (R42) -/

theorem stepOne_of_badPC (hf : s.fault = none) (hp : 0xFFE < s.pc.toNat) : stepOne s = .next (s.latched .badPC) := by
  unfold stepOne
  rw [hf]
  exact if_pos hp

/-- Where a word can be fetched, whatever the step does, it does not fault `BadPC`. -/
theorem stepOne_fault_ne_badPC (hf : s.fault = none) (hp : s.pc.toNat ≤ 0xFFE) (h : stepOne s = .next t) :
    t.fault ≠ some .badPC := by
  rcases stepOne_next_cases h with ⟨k, hk, -⟩ | ⟨-, hbad, -⟩ | ⟨op, -, -, -, rfl⟩ | ⟨i, -, -, -, hexec⟩
  · simp [hf] at hk
  · omega
  · simp
  · exact exec_fault_ne_badPC (by simp [hf]) hexec

/-- The last word of memory: its low byte is at 0xFFF, and no address is reduced. -/
theorem State.fetchWord_last (h : s.pc = 0xFFE) :
    s.fetchWord = wordOfBytes (s.memRead 0xFFE) (s.memRead 0xFFF) := by
  unfold State.fetchWord
  rw [h]
  rfl

/-- Settles O12, by the three cases of the fetch: `PC` above 0xFFE, `PC` at most 0xFFE, where the cases of the step
leave no source of `BadPC`, and `PC` = 0xFFE. -/
theorem fetchAbove0xFFEFaultsBadPC : Obligations.FetchAbove0xFFEFaultsBadPC :=
  fun _ hf => ⟨stepOne_of_badPC hf, fun hp _ => stepOne_fault_ne_badPC hf hp, State.fetchWord_last⟩

end Sys2Proof.Machine
end

section
/-! Control transfer (40_control_transfer.md rules R82 to R87): the words of RET, JP and the register skips, an
instruction that does no more than set `PC`, RET by what it pops, and the obligations on them. -/

namespace Sys2Proof.Machine

open Sys2Proof.Claims

variable {s t : State}

/-! ### The words (R65) -/

section Words

variable (m : BitVec 4) (x y : Reg) (kk : Byte) (nnn : Addr)

theorem word_eq_encNNN : word (m.toNat * 0x1000 + nnn.toNat) = encNNN m nnn := (encNNN_eq_ofNat m nnn).symm

theorem word_eq_encXKK : word (m.toNat * 0x1000 + 0x100 * x.val + kk.toNat) = encXKK m x kk := by
  rw [encXKK_eq_ofNat, Nat.mul_comm 0x100]

/-- The words whose last nibble is the minor opcode 0. -/
theorem word_eq_encXYN_zero : word (m.toNat * 0x1000 + 0x100 * x.val + 0x10 * y.val) = encXYN m x y 0#4 := by
  rw [encXYN_eq_ofNat, Nat.mul_comm 0x100, Nat.mul_comm 0x10, BitVec.toNat_zero, Nat.add_zero]

theorem decode_jp_word : decode (word (0x1000 + nnn.toNat)) = .instr (.jp nnn) := by
  have hword : word (0x1000 + nnn.toNat) = encNNN 0x1 nnn := word_eq_encNNN 0x1 nnn
  rw [hword, decode_major1 (majorOf_encNNN 0x1 nnn), fieldNnn_encNNN]

theorem decode_seVxKk_word : decode (word (0x3000 + 0x100 * x.val + kk.toNat)) = .instr (.seVxKk x kk) := by
  have hword : word (0x3000 + 0x100 * x.val + kk.toNat) = encXKK 0x3 x kk := word_eq_encXKK 0x3 x kk
  rw [hword, decode_major3 (majorOf_encXKK 0x3 x kk), fieldX_encXKK, fieldKk_encXKK]

theorem decode_sneVxKk_word : decode (word (0x4000 + 0x100 * x.val + kk.toNat)) = .instr (.sneVxKk x kk) := by
  have hword : word (0x4000 + 0x100 * x.val + kk.toNat) = encXKK 0x4 x kk := word_eq_encXKK 0x4 x kk
  rw [hword, decode_major4 (majorOf_encXKK 0x4 x kk), fieldX_encXKK, fieldKk_encXKK]

theorem decode_seVxVy_word : decode (word (0x5000 + 0x100 * x.val + 0x10 * y.val)) = .instr (.seVxVy x y) := by
  have hword : word (0x5000 + 0x100 * x.val + 0x10 * y.val) = encXYN 0x5 x y 0#4 := word_eq_encXYN_zero 0x5 x y
  rw [hword, decode_major5 (majorOf_encXYN 0x5 0#4 x y), if_pos (minorOf_encXYN 0x5 0#4 x y), fieldX_encXYN,
    fieldY_encXYN]

theorem decode_sneVxVy_word : decode (word (0x9000 + 0x100 * x.val + 0x10 * y.val)) = .instr (.sneVxVy x y) := by
  have hword : word (0x9000 + 0x100 * x.val + 0x10 * y.val) = encXYN 0x9 x y 0#4 := word_eq_encXYN_zero 0x9 x y
  rw [hword, decode_major9 (majorOf_encXYN 0x9 0#4 x y), if_pos (minorOf_encXYN 0x9 0#4 x y), fieldX_encXYN,
    fieldY_encXYN]

end Words

/-! ### Instructions that only set `PC` (R15) -/

/-- The end of an instruction is all that such an instruction does: it completes at `p` and changes nothing else. -/
theorem State.finish_completed (s : State) (p : Word16) :
    ∃ t, s.finish p = .next t ∧ Completed t p ∧ ChangesOnly noReg plain noByte s t :=
  ⟨s.ended p, rfl, ⟨rfl, rfl⟩, frame_ended s p⟩

theorem wordOfAddr_eq_word (nnn : Addr) : wordOfAddr nnn = word nnn.toNat := (BitVec.ofNat_toNat 16 nnn).symm

/-- A skip by the proposition its flag decides. -/
theorem skipTarget_of_iff {pc : Word16} {taken : Bool} {p : Prop} [Decidable p] (h : taken = true ↔ p) :
    skipTarget pc taken = pc + if p then 4 else 2 := by
  unfold skipTarget
  by_cases hp : p
  · rw [if_pos hp, if_pos (h.mpr hp)]
    rfl
  · rw [if_neg hp, if_neg (hp ∘ h.mp)]
    rfl

/-- A skip completes 4 or 2 further on and changes nothing else. -/
theorem State.finish_skip_completed (s : State) {taken : Bool} {p : Prop} [Decidable p] (h : taken = true ↔ p) :
    ∃ t, s.finish (skipTarget s.pc taken) = .next t ∧ Completed t (s.pc + if p then 4 else 2) ∧
      ChangesOnly noReg plain noByte s t := by
  rw [← skipTarget_of_iff h]
  exact s.finish_completed _

/-- Settles O25: JP is the end of an instruction at `nnn`. -/
theorem jumpSetsPC : Obligations.JumpSetsPC := fun nnn s => by
  refine ⟨decode_jp_word nnn, ?_⟩
  rw [← wordOfAddr_eq_word]
  exact s.finish_completed (wordOfAddr nnn)

/-- Settles O26: the skips on a constant are skips, by whether the two bytes are equal. -/
theorem skipsOnAConstant : Obligations.SkipsOnAConstant := fun x kk s =>
  ⟨⟨decode_seVxKk_word x kk, s.finish_skip_completed beq_iff_eq⟩,
    ⟨decode_sneVxKk_word x kk, s.finish_skip_completed bne_iff_ne⟩⟩

/-- Settles O27: the skips on two registers are skips, by whether the two bytes are equal. -/
theorem skipsOnTwoRegisters : Obligations.SkipsOnTwoRegisters := fun x y s =>
  ⟨⟨decode_seVxVy_word x y, s.finish_skip_completed beq_iff_eq⟩,
    ⟨decode_sneVxVy_word x y, s.finish_skip_completed bne_iff_ne⟩⟩

/-! ### RET (R82) -/

/-- With `SP = k + 1` a pop succeeds: it answers `STACK[k]`, leaves `SP = k` and changes nothing else. -/
theorem State.exists_pop_of_sp {k : Fin 16} (h : s.sp.val = k.val + 1) :
    ∃ t, s.pop = some (s.stack[k], t) ∧ t.sp.val = k.val ∧ t = { s with sp := t.sp } := by
  cases hpop : s.pop with
  | none =>
    have hempty := State.pop_eq_none_iff.mp hpop
    omega
  | some popped =>
    obtain ⟨a, t⟩ := popped
    obtain ⟨-, hsp, ⟨j, hj, rfl⟩, hframe⟩ := State.pop_eq_some hpop
    have hjk : j = k := Fin.ext (by omega)
    exact ⟨t, by rw [hjk], by omega, hframe⟩

theorem exec_ret_of_pop {a : Word16} (h : s.pop = some (a, t)) : exec .ret s = t.finish a := by
  show execRet s = t.finish a
  unfold execRet
  rw [h]

theorem exec_ret_of_empty (h : s.sp.val = 0) : exec .ret s = .next (s.latched .stackUnderflow) := by
  show execRet s = .next (s.latched .stackUnderflow)
  unfold execRet
  rw [State.pop_eq_none_iff.mpr h]
  rfl

/-- The end of an instruction adds `PC` and the result to what the instruction changed before. -/
theorem ChangesOnly.ended {regs : Reg → Prop} {items : List Item} {mem : Addr → Prop}
    (h : ChangesOnly regs items mem s t) (p : Word16) : ChangesOnly regs (items ++ plain) mem s (t.ended p) := by
  obtain ⟨hregs, hitems, hmem⟩ := h
  refine ⟨hregs, fun it hit => ?_, hmem⟩
  obtain ⟨hbefore, hplain⟩ := not_or.mp (mt List.mem_append.mpr hit)
  exact Item.same_ended p hplain (hitems it hbefore)

/-- Only `SP` differs: the stack cells in particular are kept. -/
theorem frame_sp (h : t = { s with sp := t.sp }) : ChangesOnly noReg [.sp] noByte s t := by
  rw [h]
  refine .of_ram (fun _ _ => rfl) (fun it hit => ?_) rfl
  cases it
  case sp => simp at hit
  case rng => exact ⟨rfl, rfl⟩
  all_goals rfl

/-- Settles O24, by the two cases of the pop: at `SP = k + 1` the end of an instruction at the popped entry, at `SP = 0`
the fault. -/
theorem retPopsThePC : Obligations.RetPopsThePC := by
  refine ⟨by decide, fun s => ⟨fun k hk => ?_, exec_ret_of_empty⟩⟩
  obtain ⟨t, hpop, hsp, hframe⟩ := State.exists_pop_of_sp hk
  exact ⟨t.ended s.stack[k], exec_ret_of_pop hpop, ⟨rfl, rfl⟩, hsp, (frame_sp hframe).ended s.stack[k]⟩

end Sys2Proof.Machine
end

section
/-! Loads and ALU (41_load_alu.md rules R100, R101, R106 to R110): the words of these instructions, what the results
and the flags are as numbers, an instruction that writes one register or one register and VF, and the obligations on
them. -/

namespace Sys2Proof.Machine

open Sys2Proof.Claims

/-! ### The words (R65) -/

section Words

variable (m n : BitVec 4) (x y : Reg) (kk : Byte)

theorem word_eq_encXYN :
    word (m.toNat * 0x1000 + n.toNat + 0x100 * x.val + 0x10 * y.val) = encXYN m x y n := by
  rw [encXYN_eq_ofNat]
  congr 1
  omega

theorem decode_ldVxKk_word : decode (word (0x6000 + 0x100 * x.val + kk.toNat)) = .instr (.ldVxKk x kk) := by
  have hword : word (0x6000 + 0x100 * x.val + kk.toNat) = encXKK 0x6 x kk := word_eq_encXKK 0x6 x kk
  rw [hword, decode_major6 (majorOf_encXKK 0x6 x kk), fieldX_encXKK, fieldKk_encXKK]

theorem decode_addVxKk_word : decode (word (0x7000 + 0x100 * x.val + kk.toNat)) = .instr (.addVxKk x kk) := by
  have hword : word (0x7000 + 0x100 * x.val + kk.toNat) = encXKK 0x7 x kk := word_eq_encXKK 0x7 x kk
  rw [hword, decode_major7 (majorOf_encXKK 0x7 x kk), fieldX_encXKK, fieldKk_encXKK]

/-- A word of major opcode 8 goes to the table of its minor opcodes. -/
theorem decode_major8_word : decode (word (0x8000 + n.toNat + 0x100 * x.val + 0x10 * y.val)) =
    decode8 (encXYN 0x8 x y n) := by
  have hword : word (0x8000 + n.toNat + 0x100 * x.val + 0x10 * y.val) = encXYN 0x8 x y n := word_eq_encXYN 0x8 n x y
  rw [hword, decode_major8 (majorOf_encXYN 0x8 n x y)]

theorem decode_addVxVy_word :
    decode (word (0x8004 + 0x100 * x.val + 0x10 * y.val)) = .instr (.addVxVy x y) :=
  (decode_major8_word 0x4 x y).trans (by simp [decode8])

theorem decode_subVxVy_word :
    decode (word (0x8005 + 0x100 * x.val + 0x10 * y.val)) = .instr (.subVxVy x y) :=
  (decode_major8_word 0x5 x y).trans (by simp [decode8])

theorem decode_shrVxVy_word :
    decode (word (0x8006 + 0x100 * x.val + 0x10 * y.val)) = .instr (.shrVxVy x y) :=
  (decode_major8_word 0x6 x y).trans (by simp [decode8])

theorem decode_subnVxVy_word :
    decode (word (0x8007 + 0x100 * x.val + 0x10 * y.val)) = .instr (.subnVxVy x y) :=
  (decode_major8_word 0x7 x y).trans (by simp [decode8])

theorem decode_shlVxVy_word :
    decode (word (0x800E + 0x100 * x.val + 0x10 * y.val)) = .instr (.shlVxVy x y) :=
  (decode_major8_word 0xE x y).trans (by simp [decode8])

end Words

/-! ### Results as numbers (R112) -/

section Results

variable (a b : Byte)

@[simp] theorem addResult_toNat : (addResult a b).toNat = (a.toNat + b.toNat) % 256 := BitVec.toNat_ofNat _ 8

@[simp] theorem subResult_toNat : (subResult a b).toNat = (a.toNat + 256 - b.toNat) % 256 := BitVec.toNat_ofNat _ 8

@[simp] theorem shiftRightResult_toNat : (shiftRightResult a).toNat = a.toNat / 2 := BitVec.toNat_ushiftRight a 1

@[simp] theorem shiftLeftResult_toNat : (shiftLeftResult a).toNat = a.toNat * 2 % 256 := by
  rw [shiftLeftResult, BitVec.toNat_shiftLeft, Nat.shiftLeft_eq]

/-! ### Flags as numbers (R12) -/

/-- A flag that decides a proposition: this is how the carry and the absence of a borrow are computed. -/
theorem flagByte_decide (p : Prop) [Decidable p] : flagByte (decide p) = if p then 1 else 0 := by
  by_cases hp : p <;> simp [flagByte, hp]

theorem flagByte_carryFlag : flagByte (carryFlag a b) = if a.toNat + b.toNat > 0xFF then 1 else 0 :=
  flagByte_decide _

theorem flagByte_notBorrowFlag : flagByte (notBorrowFlag a b) = if a.toNat ≥ b.toNat then 1 else 0 :=
  flagByte_decide _

/-- A flag that is a bit of a byte: this is how the bit shifted out is computed. -/
theorem flagByte_getLsbD_toNat (i : Nat) : (flagByte (a.getLsbD i)).toNat = a.toNat / 2 ^ i % 2 := by
  have hflag (f : Bool) : (flagByte f).toNat = f.toNat := by cases f <;> rfl
  rw [hflag, BitVec.getLsbD, Nat.toNat_testBit]

theorem flagByte_shiftRightFlag_toNat : (flagByte (shiftRightFlag a)).toNat = a.toNat % 2 := by
  rw [shiftRightFlag, flagByte_getLsbD_toNat, Nat.pow_zero, Nat.div_one]

/-- Bit 7 is the quotient by 128: a byte has no bit above it. -/
theorem flagByte_shiftLeftFlag_toNat : (flagByte (shiftLeftFlag a)).toNat = a.toNat / 128 := by
  rw [shiftLeftFlag, flagByte_getLsbD_toNat]
  have hbyte := a.isLt
  omega

end Results

/-! ### Instructions that write one register, or one register and VF -/

/-- An instruction whose one destination is `V[x]` leaves its result there, so that what holds of the result holds of
this register; it completes at the next instruction and changes nothing else. -/
theorem State.finishNext_setReg_completed (s : State) (x : Reg) {b : Byte} {P : Byte → Prop} (hresult : P b) :
    ∃ t, (s.setReg x b).finishNext = .next t ∧ P (t.reg x) ∧ Completed t (s.pc + 2) ∧
      ChangesOnly (only x) plain noByte s t := by
  refine ⟨(s.setReg x b).ended (s.pc + 2), rfl, ?_, ⟨rfl, rfl⟩, frame_setReg_ended s x b _⟩
  rwa [State.reg_ended, State.reg_setReg_self]

/-- R113: a VF-writer leaves the flag in `VF`, and its result in `V[x]` unless `x = F`, so that what holds of the
result and of the flag holds of these registers; it completes at the next instruction and changes nothing else. -/
theorem State.finishNext_setRegFlag_completed (s : State) (x : Reg) {b : Byte} {f : Bool} {P Q : Byte → Prop}
    (hresult : P b) (hflag : Q (flagByte f)) :
    ∃ t, (s.setRegFlag x b f).finishNext = .next t ∧ (x ≠ 15 → P (t.reg x)) ∧ Q (t.reg 15) ∧
      Completed t (s.pc + 2) ∧ ChangesOnly (andFlag x) plain noByte s t := by
  refine ⟨(s.setRegFlag x b f).ended (s.pc + 2), rfl, fun hx => ?_, ?_, ⟨rfl, rfl⟩, frame_setRegFlag_ended s x b f _⟩
  · rwa [State.reg_ended, s.reg_setRegFlag_result b f hx]
  · rwa [State.reg_ended, State.reg_setRegFlag_flag]

/-- Settles O30: LD with a constant writes one register. -/
theorem loadConstant : Obligations.LoadConstant := fun x kk s =>
  ⟨decode_ldVxKk_word x kk, s.finishNext_setReg_completed x (P := (· = kk)) rfl⟩

/-- Settles O31: ADD with a constant writes one register, with the sum. -/
theorem addConstantDropsTheCarry : Obligations.AddConstantDropsTheCarry := fun x kk s =>
  ⟨decode_addVxKk_word x kk, s.finishNext_setReg_completed x (P := (·.toNat = _)) (addResult_toNat (s.reg x) kk)⟩

/-- Settles O33: ADD of two registers is a VF-writer, with the sum and the carry. -/
theorem addSetsCarry : Obligations.AddSetsCarry := fun x y s =>
  ⟨decode_addVxVy_word x y, s.finishNext_setRegFlag_completed x (P := (·.toNat = _)) (Q := (· = _))
    (addResult_toNat (s.reg x) (s.reg y)) (flagByte_carryFlag (s.reg x) (s.reg y))⟩

/-- Settles O34: SUB is a VF-writer, with the difference and the absence of a borrow. -/
theorem subSetsNotBorrow : Obligations.SubSetsNotBorrow := fun x y s =>
  ⟨decode_subVxVy_word x y, s.finishNext_setRegFlag_completed x (P := (·.toNat = _)) (Q := (· = _))
    (subResult_toNat (s.reg x) (s.reg y)) (flagByte_notBorrowFlag (s.reg x) (s.reg y))⟩

/-- Settles O35: SHR is a VF-writer, with the half and the bit shifted out. -/
theorem shiftRightSetsTheBitShiftedOut : Obligations.ShiftRightSetsTheBitShiftedOut := fun x y s =>
  ⟨decode_shrVxVy_word x y, s.finishNext_setRegFlag_completed x (P := (·.toNat = _)) (Q := (·.toNat = _))
    (shiftRightResult_toNat (s.reg x)) (flagByte_shiftRightFlag_toNat (s.reg x))⟩

/-- Settles O36: SUBN is SUB with the operands exchanged, written to the same destination. -/
theorem subReversedSetsNotBorrow : Obligations.SubReversedSetsNotBorrow := fun x y s =>
  ⟨decode_subnVxVy_word x y, s.finishNext_setRegFlag_completed x (P := (·.toNat = _)) (Q := (· = _))
    (subResult_toNat (s.reg y) (s.reg x)) (flagByte_notBorrowFlag (s.reg y) (s.reg x))⟩

/-- Settles O37: SHL is a VF-writer, with the double and the bit shifted out. -/
theorem shiftLeftSetsTheBitShiftedOut : Obligations.ShiftLeftSetsTheBitShiftedOut := fun x y s =>
  ⟨decode_shlVxVy_word x y, s.finishNext_setRegFlag_completed x (P := (·.toNat = _)) (Q := (·.toNat = _))
    (shiftLeftResult_toNat (s.reg x)) (flagByte_shiftLeftFlag_toNat (s.reg x))⟩

end Sys2Proof.Machine
end

section
/-! The index register (42_index_memory.md rules R120 to R122): the words of the instructions that write `I`, the index
results as numbers, an instruction that writes `I`, and the obligations on them. -/

namespace Sys2Proof.Machine

open Sys2Proof.Claims

/-! ### The words (R65) -/

section Words

variable (x : Reg) (kk : Byte) (nnn : Addr)

theorem decode_ldINnn_word : decode (word (0xA000 + nnn.toNat)) = .instr (.ldINnn nnn) := by
  have hword : word (0xA000 + nnn.toNat) = encNNN 0xA nnn := word_eq_encNNN 0xA nnn
  rw [hword, decode_majorA (majorOf_encNNN 0xA nnn), fieldNnn_encNNN]

/-- A word of major opcode F goes to the table of its low bytes. -/
theorem decode_majorF_word : decode (word (0xF000 + kk.toNat + 0x100 * x.val)) = decodeF (encXKK 0xF x kk) := by
  have hword : word (0xF000 + 0x100 * x.val + kk.toNat) = encXKK 0xF x kk := word_eq_encXKK 0xF x kk
  rw [Nat.add_right_comm, hword, decode_majorF (majorOf_encXKK 0xF x kk)]

theorem decode_addIVx_word : decode (word (0xF01E + 0x100 * x.val)) = .instr (.addIVx x) :=
  (decode_majorF_word x 0x1E).trans (by simp [decodeF])

theorem decode_ldFVx_word : decode (word (0xF029 + 0x100 * x.val)) = .instr (.ldFVx x) :=
  (decode_majorF_word x 0x29).trans (by simp [decodeF])

end Words

/-! ### Index results and the index flag as numbers -/

section Results

variable (i : Word16) (b : Byte)

@[simp] theorem wordOfAddr_toNat (nnn : Addr) : (wordOfAddr nnn).toNat = nnn.toNat :=
  BitVec.toNat_setWidth_of_le (by decide)

/-- The sum is reduced to 12 bits, so that the word holds it whole. -/
@[simp] theorem indexSum_toNat : (indexSum i b).toNat = (i.toNat + b.toNat) % 0x1000 := by
  rw [indexSum, BitVec.toNat_ofNat]
  omega

/-- The low nibble is the remainder by 16, and the greatest glyph address is 0x09B, which the word holds whole. -/
@[simp] theorem glyphAddress_toNat : (glyphAddress b).toNat = 0x050 + (b.toNat &&& 0x0F) * 5 := by
  have hnibble : b.toNat &&& 0x0F = b.toNat % 16 := Nat.and_two_pow_sub_one_eq_mod b.toNat 4
  rw [glyphAddress, BitVec.toNat_ofNat, hnibble, Config.fontBase]
  omega

theorem flagByte_indexFlag : flagByte (indexFlag i b) = if i.toNat + b.toNat > 0xFFF then 1 else 0 :=
  flagByte_decide _

end Results

/-! ### Instructions that write `I`, or `I` and VF -/

section Frames

variable {s t : State} {regs : Reg → Prop} {items : List Item} {mem : Addr → Prop}

theorem frame_setI (s : State) (w : Word16) : ChangesOnly regs [.i] mem s (s.setI w) := by
  refine .of_ram (fun _ _ => rfl) (fun it hit => ?_) rfl
  cases it
  case i => simp at hit
  case rng => exact ⟨rfl, rfl⟩
  all_goals rfl

/-- A frame that gives up VF survives a write of the flag. -/
theorem ChangesOnly.setFlag (h : ChangesOnly regs items mem s t) (hflag : regs 15) (f : Bool) :
    ChangesOnly regs items mem s (t.setFlag f) := by
  obtain ⟨hregs, hitems, hmem⟩ := h
  refine ⟨fun r hr => ?_, fun it hit => ?_, hmem⟩
  · have hne : r ≠ 15 := fun e => hr (e ▸ hflag)
    rw [t.reg_setFlag_of_ne f hne, hregs r hr]
  · have hsame := hitems it hit
    cases it <;> exact hsame

end Frames

/-- An instruction whose one destination is `I` leaves the number of its result there; it completes at the next
instruction and changes nothing else. -/
theorem State.finishNext_setI_completed (s : State) {w : Word16} {n : Nat} (hresult : w.toNat = n) :
    ∃ t, (s.setI w).finishNext = .next t ∧ t.i.toNat = n ∧ Completed t (s.pc + 2) ∧
      ChangesOnly noReg (.i :: plain) noByte s t :=
  ⟨(s.setI w).ended (s.pc + 2), rfl, hresult, ⟨rfl, rfl⟩, (frame_setI s w).ended _⟩

/-- An instruction that writes `I` and then VF leaves the number of its result and its flag there; it completes at the
next instruction and changes nothing else. -/
theorem State.finishNext_setI_setFlag_completed (s : State) {w : Word16} {n : Nat} {f : Bool} {c : Byte}
    (hresult : w.toNat = n) (hflag : flagByte f = c) :
    ∃ t, ((s.setI w).setFlag f).finishNext = .next t ∧ t.i.toNat = n ∧ t.reg 15 = c ∧ Completed t (s.pc + 2) ∧
      ChangesOnly (only 15) (.i :: plain) noByte s t := by
  have hframe : ChangesOnly (only 15) [.i] noByte s ((s.setI w).setFlag f) :=
    (frame_setI (regs := only 15) s w).setFlag rfl f
  refine ⟨((s.setI w).setFlag f).ended (s.pc + 2), rfl, hresult, ?_, ⟨rfl, rfl⟩, hframe.ended _⟩
  rwa [State.reg_ended, State.reg_setFlag_self]

/-- Settles O39: LD with an address writes `I`, with the address. -/
theorem loadIndexConstant : Obligations.LoadIndexConstant := fun nnn s =>
  ⟨decode_ldINnn_word nnn, s.finishNext_setI_completed (wordOfAddr_toNat nnn)⟩

/-- Settles O40: ADD to `I` writes `I` and VF, with the sum and the overflow of the old `I` and the old `V[x]`. -/
theorem addToIndexSetsOverflow : Obligations.AddToIndexSetsOverflow := fun x s =>
  ⟨decode_addIVx_word x, s.finishNext_setI_setFlag_completed (indexSum_toNat s.i (s.reg x))
    (flagByte_indexFlag s.i (s.reg x))⟩

/-- Settles O41: LD F writes `I`, with the address of the glyph. -/
theorem glyphAddressOfLowNibble : Obligations.GlyphAddressOfLowNibble := fun x s =>
  ⟨decode_ldFVx_word x, s.finishNext_setI_completed (glyphAddress_toNat (s.reg x))⟩

end Sys2Proof.Machine
end

section
/-! The display (43_display.md rule R136): the blank framebuffer, what a new framebuffer leaves unchanged, and the
obligation on CLS. -/

namespace Sys2Proof.Machine

open Sys2Proof.Claims

/-- A blank framebuffer has no lit pixel: it is that of the state after reset (R26). -/
@[simp] theorem pixelOf_blank (X Y : Nat) : pixelOf (Vector.replicate 32 0#64) X Y = false := State.pixel_reset X Y

/-- R135: a new framebuffer comes with the draw flag. -/
theorem frame_setFb {regs : Reg → Prop} {mem : Addr → Prop} (s : State) (fb : FrameBuffer) :
    ChangesOnly regs [.fb, .draw] mem s (s.setFb fb) := by
  refine .of_ram (fun r _ => s.reg_setFb fb r) (fun it hit => ?_) (s.setFb_ram fb)
  cases it
  case fb | draw => simp at hit
  case rng => exact ⟨rfl, rfl⟩
  all_goals rfl

/-- Settles O47: CLS is the end of an instruction after the write of a blank framebuffer. -/
theorem clearScreen : Obligations.ClearScreen :=
  ⟨by decide, fun s => ⟨(s.setFb (Vector.replicate 32 0#64)).ended (s.pc + 2), rfl, pixelOf_blank, rfl, ⟨rfl, rfl⟩,
    (frame_setFb s _).ended _⟩⟩

end Sys2Proof.Machine
end

section
/-! The keypad and the timers (44_keypad_timers.md rules R148 to R151): the words of these instructions, the key Fx0A
takes, the writes of a timer, and the obligations on them. -/

namespace Sys2Proof.Machine

open Sys2Proof.Claims

/-! ### The words (R65) -/

section Words

variable (x : Reg)

theorem decode_ldVxDt_word : decode (word (0xF007 + 0x100 * x.val)) = .instr (.ldVxDt x) :=
  (decode_majorF_word x 0x07).trans (by simp [decodeF])

theorem decode_ldVxK_word : decode (word (0xF00A + 0x100 * x.val)) = .instr (.ldVxK x) :=
  (decode_majorF_word x 0x0A).trans (by simp [decodeF])

theorem decode_ldDtVx_word : decode (word (0xF015 + 0x100 * x.val)) = .instr (.ldDtVx x) :=
  (decode_majorF_word x 0x15).trans (by simp [decodeF])

theorem decode_ldStVx_word : decode (word (0xF018 + 0x100 * x.val)) = .instr (.ldStVx x) :=
  (decode_majorF_word x 0x18).trans (by simp [decodeF])

end Words

/-! ### The key wait (R148) -/

/-- A key number is below 16, so that the byte holds it whole. -/
@[simp] theorem keyByte_toNat (k : Fin 16) : (keyByte k).toNat = k.val := by
  rw [keyByte, BitVec.toNat_ofNat]
  omega

/-- The lowest key is the one key that is down with none below it down. -/
theorem State.lowestKey_eq_some_iff {s : State} {k : Fin 16} :
    s.lowestKey = some k ↔ s.keyDown k = true ∧ ∀ j < k, s.keyDown j = false := by
  refine ⟨State.lowestKey_eq_some, fun ⟨hdown, hbelow⟩ => ?_⟩
  cases hlow : s.lowestKey with
  | none => simp [State.lowestKey_eq_none_iff.mp hlow k] at hdown
  | some l =>
    obtain ⟨hldown, hlbelow⟩ := State.lowestKey_eq_some hlow
    have hkl : ¬ k < l := fun hlt => by simp [hlbelow k hlt] at hdown
    have hlk : ¬ l < k := fun hlt => by simp [hbelow l hlt] at hldown
    rw [le_antisymm (not_lt.mp hkl) (not_lt.mp hlk)]

theorem exec_ldVxK_of_lowestKey {s : State} {x : Reg} {k : Fin 16} (h : s.lowestKey = some k) :
    exec (.ldVxK x) s = (s.setReg x (keyByte k)).finishNext := by
  show execLdVxK x s = _
  rw [execLdVxK, h]

theorem exec_ldVxK_of_no_key {s : State} {x : Reg} (h : s.lowestKey = none) : exec (.ldVxK x) s = s.waitForKey := by
  show execLdVxK x s = _
  rw [execLdVxK, h]

/-- Settles O52, by the two answers of the search for the lowest key: with a key Fx0A writes one register, with the key
number; without one it waits. -/
theorem keyWaitTakesTheLowestKey : Obligations.KeyWaitTakesTheLowestKey := by
  refine fun x s => ⟨decode_ldVxK_word x, fun k hdown hbelow => ?_, fun hup => ?_⟩
  · rw [exec_ldVxK_of_lowestKey (State.lowestKey_eq_some_iff.mpr ⟨hdown, hbelow⟩)]
    exact s.finishNext_setReg_completed x (P := (·.toNat = k.val)) (keyByte_toNat k)
  · exact exec_ldVxK_of_no_key (State.lowestKey_eq_none_iff.mpr hup)

/-! ### The timers (R149 to R151) -/

/-- R180: the beep output is on while `ST` is not 0. -/
theorem State.beep_iff {s : State} : s.beep = true ↔ s.st ≠ 0 := by
  rw [State.beep, decide_eq_true_iff, gt_iff_lt, Nat.pos_iff_ne_zero, BitVec.toNat_ne]
  rfl

theorem frame_setDt (s : State) (b : Byte) : ChangesOnly noReg [.dt] noByte s (s.setDt b) := by
  refine .of_ram (fun _ _ => rfl) (fun it hit => ?_) rfl
  cases it
  case dt => simp at hit
  case rng => exact ⟨rfl, rfl⟩
  all_goals rfl

theorem frame_setSt (s : State) (b : Byte) : ChangesOnly noReg [.st] noByte s (s.setSt b) := by
  refine .of_ram (fun _ _ => rfl) (fun it hit => ?_) rfl
  cases it
  case st => simp at hit
  case rng => exact ⟨rfl, rfl⟩
  all_goals rfl

/-- Settles O53: LD from the delay timer writes one register, with `DT`. -/
theorem readDelayTimer : Obligations.ReadDelayTimer := fun x s =>
  ⟨decode_ldVxDt_word x, s.finishNext_setReg_completed x (P := (· = s.dt)) rfl⟩

/-- Settles O54: each of the two is the end of an instruction after the write of its timer, and the beep output is that
of the new `ST`. -/
theorem writeTimers : Obligations.WriteTimers := fun x s =>
  ⟨⟨decode_ldDtVx_word x, (s.setDt (s.reg x)).ended (s.pc + 2), rfl, rfl, ⟨rfl, rfl⟩, (frame_setDt s _).ended _⟩,
    ⟨decode_ldStVx_word x, (s.setSt (s.reg x)).ended (s.pc + 2), rfl, rfl, State.beep_iff, ⟨rfl, rfl⟩,
      (frame_setSt s _).ended _⟩⟩

end Sys2Proof.Machine
end

section
/-! The tick, the key update and the acknowledge (60_exceptions.md rules R172, R177, R179): the item each writes, what
all three leave unchanged, and the obligation on them. -/

namespace Sys2Proof.Machine

open Sys2Proof.Claims

/-! ### What is written -/

/-- R172: the subtraction of natural numbers saturates at 0, as the timers do. -/
@[simp] theorem tickDown_toNat (b : Byte) : (tickDown b).toNat = b.toNat - 1 := by
  have hbyte := b.isLt
  unfold tickDown
  split
  · rw [BitVec.toNat_sub, BitVec.toNat_ofNat]
    omega
  · rw [BitVec.toNat_ofNat]
    omega

theorem State.keyDown_setKey (s : State) (k j : Fin 16) (d : Bool) :
    (s.setKey k d).keyDown j = if j = k then d else s.keyDown j := by
  simp [State.keyDown, State.setKey, Vector.getElem_set, Fin.ext_iff, eq_comm]

/-! ### What is left unchanged -/

/-- The items the host writes between steps. -/
abbrev hostItems : List Item := [.keys, .dt, .st, .draw]

/-- An operation that writes host items at most changes only those of them that it does not keep. -/
theorem frame_hostItems {s t : State} {items : List Item}
    (h : t = { s with keys := t.keys, dt := t.dt, st := t.st, draw := t.draw })
    (hkept : ∀ it ∈ hostItems, it ∉ items → it.Same s t) : ChangesOnly noReg items noByte s t := by
  have hother : ∀ it ∉ hostItems, it.Same s t := fun it hit => by
    rw [h]
    cases it
    case keys | dt | st | draw => simp at hit
    case rng => exact ⟨rfl, rfl⟩
    all_goals rfl
  refine .of_ram (fun r _ => by rw [h]; rfl) (fun it hit => ?_) (by rw [h])
  by_cases hhost : it ∈ hostItems
  · exact hkept it hhost hit
  · exact hother it hhost

theorem frame_tickTimers (s : State) : ChangesOnly noReg [.dt, .st] noByte s s.tickTimers :=
  frame_hostItems rfl (by simp [Item.Same])

theorem frame_setKey (s : State) (k : Fin 16) (d : Bool) : ChangesOnly noReg [.keys] noByte s (s.setKey k d) :=
  frame_hostItems rfl (by simp [Item.Same])

theorem frame_presentAck (s : State) : ChangesOnly noReg [.draw] noByte s s.presentAck :=
  frame_hostItems rfl (by simp [Item.Same])

/-- Settles O19: what each of the three operations writes, and its frame. -/
theorem hostOperationsWriteTheirItemOnly : Obligations.HostOperationsWriteTheirItemOnly := fun s =>
  ⟨⟨s.tickTimers, rfl, tickDown_toNat s.dt, tickDown_toNat s.st, frame_tickTimers s⟩,
    fun k d => ⟨s.setKey k d, rfl, fun j => s.keyDown_setKey k j d, frame_setKey s k d⟩,
    ⟨s.presentAck, rfl, rfl, frame_presentAck s⟩⟩

end Sys2Proof.Machine
end

section
/-! The decoder and the encoder (30_encoding.md rules R61 to R68): they are inverse to each other on well-formed
instructions, the rows of the map as masks and matches, the illegal words, and the obligations on them. -/

namespace Sys2Proof.Machine

open Sys2Proof.Claims

variable {op : Word16} {i : Instr} {m n : BitVec 4} {x y : Reg} {kk : Byte} {nnn : Addr}

/-- Settles O1, by running the decoder on the eighteen words. -/
theorem wordsOfTheManualDecode : Obligations.WordsOfTheManualDecode := by
  unfold Obligations.WordsOfTheManualDecode
  decide

/-! ### From the instruction to the word and back (R64, R65) -/

theorem encNNN_ne_of_ne {nnn' : Addr} (h : nnn ≠ nnn') : encNNN m nnn ≠ encNNN m nnn' := fun e =>
  h (by simpa using congrArg fieldNnn e)

/-- R64: an address other than 0E0 and 0EE gives a word that means SYS. -/
theorem decode_encNNN_zero (hcls : nnn ≠ 0x0E0) (hret : nnn ≠ 0x0EE) :
    decode (encNNN 0x0 nnn) = .instr (.sys nnn) := by
  have hnotCls : encNNN 0x0 nnn ≠ 0x00E0#16 := encNNN_ne_of_ne hcls
  have hnotRet : encNNN 0x0 nnn ≠ 0x00EE#16 := encNNN_ne_of_ne hret
  rw [decode_major0 (majorOf_encNNN 0x0 nnn), decode0, if_neg hnotCls, if_neg hnotRet, fieldNnn_encNNN]

/-- The word of a well-formed instruction decodes to it: the decoder selects on the fields the encoder has put in. -/
theorem decode_encode (h : i.wf = true) : decode (encode i) = .instr i := by
  cases i
  case cls | ret => decide
  case sys nnn =>
    obtain ⟨hcls, hret⟩ : nnn ≠ 0x0E0 ∧ nnn ≠ 0x0EE := by simpa [Instr.wf] using h
    exact decode_encNNN_zero hcls hret
  case jp | call | ldINnn | jpV0Nnn | seVxKk | sneVxKk | ldVxKk | addVxKk | rndVxKk | seVxVy | sneVxVy =>
    simp [encode, decode]
  case drwVxVyN => simp [encode, decode, fieldN]
  case skpVx | sknpVx => simp [encode, decode, decodeE]
  case ldVxVy | orVxVy | andVxVy | xorVxVy | addVxVy | subVxVy | shrVxVy | subnVxVy | shlVxVy =>
    simp [encode, decode, decode8]
  all_goals simp [encode, decode, decodeF]

theorem decodeBytes_of_decode {hi lo : Byte} (h : decode (wordOfBytes hi lo) = .instr i) (rest : List Byte) :
    decodeBytes (hi :: lo :: rest) = .instr i rest := by
  rw [decodeBytes, h]

/-- Settles O2: the two bytes of an encoded instruction make its word again, and that word decodes to it. -/
theorem decodeOfEncodeIsIdentity : Obligations.DecodeOfEncodeIsIdentity := fun i rest hwf =>
  decodeBytes_of_decode (by rw [wordOfBytes_split, decode_encode hwf]) rest

/-! ### From the word to the instruction and back -/

/-- A word is the encoding of its fields, with whatever is known of a field put in. -/
theorem encNNN_of_fields (hm : majorOf op = m) : encNNN m (fieldNnn op) = op := by
  rw [← hm, encNNN_fields]

theorem encXKK_of_fields (hm : majorOf op = m) (hk : fieldKk op = kk) : encXKK m (fieldX op) kk = op := by
  rw [← hm, ← hk, encXKK_fields]

theorem encXYN_of_fields (hm : majorOf op = m) (hn : minorOf op = n) :
    encXYN m (fieldX op) (fieldY op) n = op := by
  rw [← hm, ← hn, encXYN_fields]

/-- An answer of the decoder for the word `op` that is an instruction is a well-formed one, with the word `op`. -/
def Inverts (op : Word16) (d : Decoded) : Prop := ∀ i, d = .instr i → i.wf = true ∧ encode i = op

theorem Inverts.instr (hwf : i.wf = true) (h : encode i = op) : Inverts op (.instr i) := fun _ e => by
  cases e
  exact ⟨hwf, h⟩

theorem Inverts.illegal (w : Word16) : Inverts op (.illegal w) := fun _ => Decoded.noConfusion

theorem Inverts.ite {c : Prop} [Decidable c] {d d' : Decoded} (h : c → Inverts op d) (h' : ¬ c → Inverts op d') :
    Inverts op (if c then d else d') := by
  split
  next hc => exact h hc
  next hc => exact h' hc

/-- Major opcode 0: SYS is left for the words that mean neither CLS nor RET, so its address is neither 0E0 nor 0EE. -/
theorem inverts_decode0 (hm : majorOf op = 0x0) : Inverts op (decode0 op) := by
  have hop : encNNN 0x0 (fieldNnn op) = op := encNNN_of_fields hm
  have hne {a : Addr} (h : op ≠ encNNN 0x0 a) : fieldNnn op ≠ a := fun e => h (e ▸ hop.symm)
  unfold decode0
  refine .ite (fun hcls => .instr rfl hcls.symm) fun hcls => .ite (fun hret => .instr rfl hret.symm) fun hret =>
    .instr ?_ hop
  have hwf : fieldNnn op ≠ 0x0E0 ∧ fieldNnn op ≠ 0x0EE := ⟨hne hcls, hne hret⟩
  simpa [Instr.wf] using hwf

theorem inverts_decode8 (hm : majorOf op = 0x8) : Inverts op (decode8 op) := by
  unfold decode8
  iterate 9 refine .ite (fun hn => .instr rfl (encXYN_of_fields hm hn)) fun _ => ?_
  exact .illegal op

theorem inverts_decodeE (hm : majorOf op = 0xE) : Inverts op (decodeE op) := by
  unfold decodeE
  iterate 2 refine .ite (fun hk => .instr rfl (encXKK_of_fields hm hk)) fun _ => ?_
  exact .illegal op

theorem inverts_decodeF (hm : majorOf op = 0xF) : Inverts op (decodeF op) := by
  unfold decodeF
  iterate 9 refine .ite (fun hk => .instr rfl (encXKK_of_fields hm hk)) fun _ => ?_
  exact .illegal op

/-- By the major opcode: the instruction selected on the fields of the word has the word as its encoding. -/
theorem inverts_decode (op : Word16) : Inverts op (decode op) := by
  rcases nibble_cases (majorOf op) with hm | hm | hm | hm | hm | hm | hm | hm | hm | hm | hm | hm | hm | hm | hm | hm
  · exact decode_major0 hm ▸ inverts_decode0 hm
  · exact decode_major1 hm ▸ .instr rfl (encNNN_of_fields hm)
  · exact decode_major2 hm ▸ .instr rfl (encNNN_of_fields hm)
  · exact decode_major3 hm ▸ .instr rfl (encXKK_of_fields hm rfl)
  · exact decode_major4 hm ▸ .instr rfl (encXKK_of_fields hm rfl)
  · exact decode_major5 hm ▸ .ite (fun hn => .instr rfl (encXYN_of_fields hm hn)) fun _ => .illegal op
  · exact decode_major6 hm ▸ .instr rfl (encXKK_of_fields hm rfl)
  · exact decode_major7 hm ▸ .instr rfl (encXKK_of_fields hm rfl)
  · exact decode_major8 hm ▸ inverts_decode8 hm
  · exact decode_major9 hm ▸ .ite (fun hn => .instr rfl (encXYN_of_fields hm hn)) fun _ => .illegal op
  · exact decode_majorA hm ▸ .instr rfl (encNNN_of_fields hm)
  · exact decode_majorB hm ▸ .instr rfl (encNNN_of_fields hm)
  · exact decode_majorC hm ▸ .instr rfl (encXKK_of_fields hm rfl)
  · exact decode_majorD hm ▸ .instr rfl (encXYN_of_fields hm rfl)
  · exact decode_majorE hm ▸ inverts_decodeE hm
  · exact decode_majorF hm ▸ inverts_decodeF hm

/-- Settles O3: whatever the decoder answers, it inverts the encoder. -/
theorem encodeOfDecodeIsIdentity : Obligations.EncodeOfDecodeIsIdentity := inverts_decode

/-- The decoder is the inverse of the encoder on the well-formed instructions. -/
theorem decode_eq_instr_iff : decode op = .instr i ↔ i.wf = true ∧ encode i = op :=
  ⟨inverts_decode op i, fun ⟨hwf, h⟩ => h ▸ decode_encode hwf⟩

/-! ### The map as masks and matches (R62, R65) -/

theorem nibble_and_F (a : BitVec 4) : a &&& 0xF = a := BitVec.and_allOnes

/-- The masks of R65 clear the operand fields and keep the others. -/
theorem and_F000 (op : Word16) : op &&& 0xF000#16 = encNNN (majorOf op) 0 :=
  calc op &&& 0xF000#16
    _ = encNNN (majorOf op) (fieldNnn op) &&& encNNN 0xF 0 := by rw [encNNN_fields]; rfl
    _ = encNNN (majorOf op &&& 0xF) (fieldNnn op &&& 0#12) := BitVec.and_append
    _ = encNNN (majorOf op) 0 := by rw [nibble_and_F, BitVec.and_zero]; rfl

theorem and_F0FF (op : Word16) : op &&& 0xF0FF#16 = encXKK (majorOf op) 0 (fieldKk op) :=
  calc op &&& 0xF0FF#16
    _ = encXKK (majorOf op) (fieldX op) (fieldKk op) &&& encXKK 0xF 0 0xFF := by rw [encXKK_fields]; rfl
    _ = (majorOf op &&& 0xF) ++ (BitVec.ofFin (fieldX op) &&& 0#4) ++ (fieldKk op &&& BitVec.allOnes 8) := by
      rw [← BitVec.and_append, ← BitVec.and_append]; rfl
    _ = encXKK (majorOf op) 0 (fieldKk op) := by rw [nibble_and_F, BitVec.and_zero, BitVec.and_allOnes]; rfl

theorem and_F00F (op : Word16) : op &&& 0xF00F#16 = encXYN (majorOf op) 0 0 (minorOf op) :=
  calc op &&& 0xF00F#16
    _ = encXYN (majorOf op) (fieldX op) (fieldY op) (minorOf op) &&& encXYN 0xF 0 0 0xF := by rw [encXYN_fields]; rfl
    _ = (majorOf op &&& 0xF) ++ (BitVec.ofFin (fieldX op) &&& 0#4) ++ (BitVec.ofFin (fieldY op) &&& 0#4) ++
        (minorOf op &&& 0xF) := by
      rw [← BitVec.and_append, ← BitVec.and_append, ← BitVec.and_append]; rfl
    _ = encXYN (majorOf op) 0 0 (minorOf op) := by
      rw [nibble_and_F, nibble_and_F, BitVec.and_zero, BitVec.and_zero]; rfl

/-- The extraction conventions of R62, written with shifts and masks, give the fields. -/
theorem toNat_and_0FFF (op : Word16) : op.toNat &&& 0x0FFF = (fieldNnn op).toNat := by
  rw [fieldNnn_toNat]
  exact Nat.and_two_pow_sub_one_eq_mod op.toNat 12

theorem toNat_and_00FF (op : Word16) : op.toNat &&& 0x00FF = (fieldKk op).toNat := by
  rw [fieldKk_toNat]
  exact Nat.and_two_pow_sub_one_eq_mod op.toNat 8

theorem toNat_and_000F (op : Word16) : op.toNat &&& 0x000F = (minorOf op).toNat := by
  rw [minorOf_toNat]
  exact Nat.and_two_pow_sub_one_eq_mod op.toNat 4

theorem toNat_shift_and_X (op : Word16) : (op.toNat >>> 8) &&& 0x0F = (fieldX op).val := by
  rw [fieldX_val, Nat.shiftRight_eq_div_pow]
  exact Nat.and_two_pow_sub_one_eq_mod _ 4

theorem toNat_shift_and_Y (op : Word16) : (op.toNat >>> 4) &&& 0x0F = (fieldY op).val := by
  rw [fieldY_val, Nat.shiftRight_eq_div_pow]
  exact Nat.and_two_pow_sub_one_eq_mod _ 4

/-! A word in each of the formats of R61, as a masked word and the operands: the format fixes the other fields. -/

theorem encNNN_eq_iff : encNNN m nnn = op ↔
    op &&& 0xF000#16 = encNNN m 0 ∧ nnn.toNat = op.toNat &&& 0x0FFF := by
  rw [and_F000, toNat_and_0FFF]
  constructor
  · rintro rfl
    simp
  · rintro ⟨hrow, hnnn⟩
    rw [BitVec.eq_of_toNat_eq hnnn]
    exact encNNN_of_fields (by simpa using congrArg majorOf hrow)

theorem encXKK_eq_iff : encXKK m x kk = op ↔
    op &&& 0xF000#16 = encNNN m 0 ∧ x.val = (op.toNat >>> 8) &&& 0x0F ∧ kk.toNat = op.toNat &&& 0x00FF := by
  rw [and_F000, toNat_shift_and_X, toNat_and_00FF]
  constructor
  · rintro rfl
    simp
  · rintro ⟨hrow, hx, hkk⟩
    rw [Fin.ext hx, BitVec.eq_of_toNat_eq hkk]
    exact encXKK_of_fields (by simpa using congrArg majorOf hrow) rfl

theorem encXKK_eq_iff_of_minor : encXKK m x kk = op ↔
    op &&& 0xF0FF#16 = encXKK m 0 kk ∧ x.val = (op.toNat >>> 8) &&& 0x0F := by
  rw [and_F0FF, toNat_shift_and_X]
  constructor
  · rintro rfl
    simp
  · rintro ⟨hrow, hx⟩
    rw [Fin.ext hx]
    exact encXKK_of_fields (by simpa using congrArg majorOf hrow) (by simpa using congrArg fieldKk hrow)

theorem encXYN_eq_iff : encXYN m x y n = op ↔ op &&& 0xF000#16 = encNNN m 0 ∧ x.val = (op.toNat >>> 8) &&& 0x0F ∧
    y.val = (op.toNat >>> 4) &&& 0x0F ∧ n.toNat = op.toNat &&& 0x000F := by
  rw [and_F000, toNat_shift_and_X, toNat_shift_and_Y, toNat_and_000F]
  constructor
  · rintro rfl
    simp
  · rintro ⟨hrow, hx, hy, hn⟩
    rw [Fin.ext hx, Fin.ext hy]
    exact encXYN_of_fields (by simpa using congrArg majorOf hrow) (BitVec.eq_of_toNat_eq hn.symm)

theorem encXYN_eq_iff_of_minor : encXYN m x y n = op ↔ op &&& 0xF00F#16 = encXYN m 0 0 n ∧
    x.val = (op.toNat >>> 8) &&& 0x0F ∧ y.val = (op.toNat >>> 4) &&& 0x0F := by
  rw [and_F00F, toNat_shift_and_X, toNat_shift_and_Y]
  constructor
  · rintro rfl
    simp
  · rintro ⟨hrow, hx, hy⟩
    rw [Fin.ext hx, Fin.ext hy]
    exact encXYN_of_fields (by simpa using congrArg majorOf hrow) (by simpa using congrArg minorOf hrow)

/-- A row of the map: its words are those with the mask and match of the row and the operands of the instruction. -/
theorem encode_eq_iff_row (i : Instr) (op : Word16) :
    encode i = op ↔ op &&& (rowOf i).1 = (rowOf i).2 ∧ operandsOf op i := by
  have hexact (w : Word16) : w = op ↔ op &&& 0xFFFF#16 = w ∧ True := by
    rw [show op &&& 0xFFFF#16 = op from BitVec.and_allOnes, and_true, eq_comm]
  cases i
  case cls | ret => exact hexact _
  case sys | jp | call | ldINnn | jpV0Nnn => exact encNNN_eq_iff
  case seVxKk | sneVxKk | ldVxKk | addVxKk | rndVxKk => exact encXKK_eq_iff
  case drwVxVyN => exact encXYN_eq_iff
  case seVxVy | sneVxVy | ldVxVy | orVxVy | andVxVy | xorVxVy | addVxVy | subVxVy | shrVxVy | subnVxVy | shlVxVy =>
    exact encXYN_eq_iff_of_minor
  all_goals exact encXKK_eq_iff_of_minor

/-- R64: an instruction is ill formed only as a SYS whose word means CLS or RET. -/
theorem wf_iff_of_encode_eq (h : encode i = op) :
    i.wf = true ↔ ((∃ nnn, i = .sys nnn) → op ≠ 0x00E0 ∧ op ≠ 0x00EE) := by
  subst h
  cases i
  case sys nnn =>
    have hword (a : Addr) : nnn ≠ a ↔ encNNN 0x0 nnn ≠ encNNN 0x0 a :=
      ⟨encNNN_ne_of_ne, fun h e => h (e ▸ rfl)⟩
    have hwf : (Instr.sys nnn).wf = true ↔ nnn ≠ 0x0E0 ∧ nnn ≠ 0x0EE := by simp [Instr.wf]
    rw [hwf, hword, hword]
    exact ⟨fun h _ => h, fun h => h ⟨nnn, rfl⟩⟩
  all_goals simp [Instr.wf]

/-- Settles O4: the decoder inverts the encoder, whose words are those of the row. -/
theorem opcodeMapByMaskAndMatch : Obligations.OpcodeMapByMaskAndMatch := by
  intro op i
  rw [decode_eq_instr_iff, ← and_assoc, ← encode_eq_iff_row, and_comm]
  exact and_congr_right wf_iff_of_encode_eq

/-! ### The illegal words (R66) -/

/-- The decoder's answer `d` for the word `op` is the label illegal if `p` holds, else an instruction. -/
def IllegalIff (p : Prop) (op : Word16) (d : Decoded) : Prop := (p → d = .illegal op) ∧ (¬ p → ∃ i, d = .instr i)

section IllegalIff

variable {p q : Prop}

theorem IllegalIff.congr {d : Decoded} (h : IllegalIff p op d) (hpq : q ↔ p) : IllegalIff q op d := by
  rwa [IllegalIff, hpq]

theorem IllegalIff.instr (op : Word16) (i : Instr) : IllegalIff False op (.instr i) := ⟨False.elim, fun _ => ⟨i, rfl⟩⟩

theorem IllegalIff.illegal (op : Word16) : IllegalIff True op (.illegal op) :=
  ⟨fun _ => rfl, fun h => absurd trivial h⟩

/-- An arm of a selection takes its words out of the illegal ones. -/
theorem IllegalIff.ite {c : Prop} [Decidable c] {i : Instr} {d : Decoded} (h : IllegalIff p op d) :
    IllegalIff (¬ c ∧ p) op (if c then .instr i else d) := by
  by_cases hc : c
  · rw [if_pos hc]
    exact ⟨fun h => absurd hc h.1, fun _ => ⟨i, rfl⟩⟩
  · rw [if_neg hc]
    exact h.congr (and_iff_right hc)

end IllegalIff

theorem illegalIff_decode0 (op : Word16) : IllegalIff False op (decode0 op) :=
  (IllegalIff.ite (.ite (.instr op (.sys (fieldNnn op))))).congr (by simp)

theorem illegalIff_decode8 (op : Word16) :
    IllegalIff (minorOf op ∉ [0x0, 0x1, 0x2, 0x3, 0x4, 0x5, 0x6, 0x7, 0xE]) op (decode8 op) :=
  (IllegalIff.ite (.ite (.ite (.ite (.ite (.ite (.ite (.ite (.ite (.illegal op)))))))))).congr (by simp)

theorem illegalIff_decodeE (op : Word16) : IllegalIff (fieldKk op ∉ [0x9E, 0xA1]) op (decodeE op) :=
  (IllegalIff.ite (.ite (.illegal op))).congr (by simp)

theorem illegalIff_decodeF (op : Word16) :
    IllegalIff (fieldKk op ∉ [0x07, 0x0A, 0x15, 0x18, 0x1E, 0x29, 0x33, 0x55, 0x65]) op (decodeF op) :=
  (IllegalIff.ite (.ite (.ite (.ite (.ite (.ite (.ite (.ite (.ite (.illegal op)))))))))).congr (by simp)

/-! The five spaces of R66, each under its major opcode; under any other major opcode there is none. -/

/-- What `illegalWord` says of a word is said of its fields. -/
theorem illegalWord_iff : illegalWord op ↔
    (majorOf op = 0x5 ∧ minorOf op ≠ 0x0) ∨
    (majorOf op = 0x8 ∧ minorOf op ∉ [0x0, 0x1, 0x2, 0x3, 0x4, 0x5, 0x6, 0x7, 0xE]) ∨
    (majorOf op = 0x9 ∧ minorOf op ≠ 0x0) ∨
    (majorOf op = 0xE ∧ fieldKk op ∉ [0x9E, 0xA1]) ∨
    (majorOf op = 0xF ∧ fieldKk op ∉ [0x07, 0x0A, 0x15, 0x18, 0x1E, 0x29, 0x33, 0x55, 0x65]) := by
  have hminor : ∀ n : BitVec 4, n.toNat ∈ [8, 9, 0xA, 0xB, 0xC, 0xD, 0xF] ↔
      n ∉ [0x0, 0x1, 0x2, 0x3, 0x4, 0x5, 0x6, 0x7, 0xE] := by decide
  rw [← hminor]
  simp [illegalWord, ← majorOf_toNat, ← minorOf_toNat, ← fieldKk_toNat, BitVec.toNat_eq]

theorem illegalIff_decode (op : Word16) : IllegalIff (illegalWord op) op (decode op) := by
  have legal {i : Instr} (h : decode op = .instr i) (hlegal : ¬ illegalWord op) :
      IllegalIff (illegalWord op) op (decode op) := h ▸ (IllegalIff.instr op i).congr (iff_of_false hlegal id)
  rcases nibble_cases (majorOf op) with hm | hm | hm | hm | hm | hm | hm | hm | hm | hm | hm | hm | hm | hm | hm | hm
  · exact decode_major0 hm ▸ IllegalIff.congr (illegalIff_decode0 op) (by simp [illegalWord_iff, hm])
  · exact legal (decode_major1 hm) (by simp [illegalWord_iff, hm])
  · exact legal (decode_major2 hm) (by simp [illegalWord_iff, hm])
  · exact legal (decode_major3 hm) (by simp [illegalWord_iff, hm])
  · exact legal (decode_major4 hm) (by simp [illegalWord_iff, hm])
  · exact decode_major5 hm ▸ IllegalIff.congr (.ite (.illegal op)) (by simp [illegalWord_iff, hm])
  · exact legal (decode_major6 hm) (by simp [illegalWord_iff, hm])
  · exact legal (decode_major7 hm) (by simp [illegalWord_iff, hm])
  · exact decode_major8 hm ▸ IllegalIff.congr (illegalIff_decode8 op) (by simp [illegalWord_iff, hm])
  · exact decode_major9 hm ▸ IllegalIff.congr (.ite (.illegal op)) (by simp [illegalWord_iff, hm])
  · exact legal (decode_majorA hm) (by simp [illegalWord_iff, hm])
  · exact legal (decode_majorB hm) (by simp [illegalWord_iff, hm])
  · exact legal (decode_majorC hm) (by simp [illegalWord_iff, hm])
  · exact legal (decode_majorD hm) (by simp [illegalWord_iff, hm])
  · exact decode_majorE hm ▸ IllegalIff.congr (illegalIff_decodeE op) (by simp [illegalWord_iff, hm])
  · exact decode_majorF hm ▸ IllegalIff.congr (illegalIff_decodeF op) (by simp [illegalWord_iff, hm])

/-- Settles O5: the decoder's answer is the label illegal on the words of the five spaces alone. -/
theorem illegalWordsAreThoseOfTheTable : Obligations.IllegalWordsAreThoseOfTheTable := illegalIff_decode

theorem decode_of_illegalWord (h : illegalWord op) : decode op = .illegal op := (illegalIff_decode op).1 h

theorem not_illegalWord_of_decode (h : decode op = .instr i) : ¬ illegalWord op := fun hill => by
  simp [decode_of_illegalWord hill] at h

/-- A word labelled illegal is labelled with itself. -/
theorem illegalWord_of_decode {w : Word16} (h : decode op = .illegal w) : illegalWord op ∧ w = op := by
  have hill : illegalWord op := by
    by_contra hlegal
    obtain ⟨i, hi⟩ := (illegalIff_decode op).2 hlegal
    simp [hi] at h
  rw [decode_of_illegalWord hill] at h
  cases h
  exact ⟨hill, rfl⟩

end Sys2Proof.Machine
end

section
/-! The canonical form of RAM as data, what `load` leaves (70_reset_and_hazards.md rule R192), and the obligations on
them. -/

namespace Sys2Proof.Machine

/-! ### Canonical memories (R25) -/

/-- A cell of a canonical memory is told from every memory that lists nothing so far: it holds another byte than the
reset contents. -/
theorem Memory.read_cons_ne {lo k : Nat} {c : Byte} {m m' : Memory} (hw : Memory.wfFrom lo ((k, c) :: m) = true)
    (hw' : Memory.wfFrom (k + 1) m' = true) : Memory.read ((k, c) :: m) k ≠ Memory.read m' k := by
  obtain ⟨-, -, hc, -⟩ := Memory.wfFrom_cons.mp hw
  rw [Memory.read_of_lt hw' (Nat.lt_succ_self k), Memory.read, if_pos rfl]
  exact hc

/-- Two canonical memories that read alike are the same list: their first cells have the same address, for the memory
that begins later reads there as after reset; and the same byte; and behind them the memories read alike. -/
theorem Memory.eq_of_read_eq {lo : Nat} {m m' : Memory} (hw : Memory.wfFrom lo m = true)
    (hw' : Memory.wfFrom lo m' = true) (hread : ∀ a < Config.ramSize, Memory.read m a = Memory.read m' a) : m = m' := by
  induction m generalizing lo m' with
  | nil =>
    cases m' with
    | nil => rfl
    | cons p m' =>
      obtain ⟨hk, hram, -, -⟩ := Memory.wfFrom_cons.mp hw'
      exact absurd (hread p.1 hram).symm (Memory.read_cons_ne hw' rfl)
  | cons p m ih =>
    obtain ⟨k, c⟩ := p
    obtain ⟨hk, hram, hc, hm⟩ := Memory.wfFrom_cons.mp hw
    cases m' with
    | nil => exact absurd (hread k hram) (Memory.read_cons_ne hw rfl)
    | cons p' m' =>
      obtain ⟨k', c'⟩ := p'
      obtain ⟨hk', hram', hc', hm'⟩ := Memory.wfFrom_cons.mp hw'
      have hle : k' ≤ k := by
        by_contra hlt
        exact Memory.read_cons_ne hw (Memory.wfFrom_cons.mpr ⟨by omega, hram', hc', hm'⟩) (hread k hram)
      have hge : k ≤ k' := by
        by_contra hlt
        exact Memory.read_cons_ne hw' (Memory.wfFrom_cons.mpr ⟨by omega, hram, hc, hm⟩) (hread k' hram').symm
      obtain rfl : k = k' := by omega
      obtain rfl : c = c' := by simpa [Memory.read] using hread k hram
      rw [ih hm hm' fun a ha => ?_]
      by_cases hak : a ≤ k
      · rw [Memory.read_of_lt hm (by omega), Memory.read_of_lt hm' (by omega)]
      · have hne : k ≠ a := by omega
        simpa [Memory.read, hne] using hread a ha

/-- Settles O10: every address of RAM is a 12-bit address, and canonical memories list no other. -/
theorem equalMemoriesAreEqualData : Obligations.EqualMemoriesAreEqualData := fun _ _ hw hw' hread =>
  Memory.eq_of_read_eq hw hw' fun a ha => by
    have haddr : (BitVec.ofNat 12 a).toNat = a := Nat.mod_eq_of_lt ha
    simpa [haddr] using hread (BitVec.ofNat 12 a)

/-! ### `load` (R192, R193) -/

section Load

variable {s : State} {rom : List Byte}

theorem State.load_of_too_large (h : 3584 < rom.length) : s.load rom = s.doReset.latched .romTooLarge := if_pos h

/-- A ROM that fits is written over the reset contents; beside RAM only the result differs from the reset state, in
which the draw flag is set already. -/
theorem State.load_of_fits (h : rom.length ≤ 3584) :
    s.load rom = { s.doReset with
      ram := Memory.writeFrom (fun k => Config.romBase + k) 0 rom s.doReset.ram, result := some .ok } :=
  if_neg (Nat.not_lt.mpr h)

/-- The addresses of a ROM that fits are inside RAM. -/
theorem romAddress_lt {j : Nat} (h : rom.length ≤ 3584) (hj : j < rom.length) :
    Config.romBase + (0 + j) < Config.ramSize := by
  unfold Config.romBase Config.ramSize
  omega

theorem State.wf_load (s : State) (rom : List Byte) : (s.load rom).ram.wf = true := by
  by_cases h : rom.length ≤ 3584
  · rw [State.load_of_fits h]
    exact Memory.wf_writeFrom (fun j hj => romAddress_lt h hj) reset_ram_wf
  · rw [State.load_of_too_large (Nat.not_le.mp h)]
    exact reset_ram_wf

/-- The byte of the ROM inside its range, the reset contents outside. -/
theorem State.memRead_load (h : rom.length ≤ 3584) (a : Addr) : (s.load rom).memRead a =
    if 0x200 ≤ a.toNat ∧ a.toNat < 0x200 + rom.length then rom.getD (a.toNat - 0x200) 0
    else s.doReset.memRead a := by
  rw [State.load_of_fits h]
  split
  next hin =>
    obtain ⟨j, hj⟩ := Nat.exists_eq_add_of_le hin.1
    have hlen : j < rom.length := by omega
    have hbyte := Memory.read_writeFrom (fun j hj => romAddress_lt h hj) reset_ram_wf
      (fun _ _ _ _ e => by omega) hlen
    rw [hj, Nat.add_sub_cancel_left, List.getD_eq_getElem _ _ hlen, ← hbyte]
    simp [State.memRead, hj, Config.romBase]
  next hout =>
    refine Memory.read_writeFrom_of_ne fun j hj e => hout ?_
    unfold Config.romBase at e
    omega

end Load

/-- Settles O9, by whether the ROM fits. -/
theorem loadCopiesTheRomOrFails : Obligations.LoadCopiesTheRomOrFails := fun s rom =>
  ⟨s.load rom, rfl, fun h => ⟨State.memRead_load h, by rw [State.load_of_fits h], by rw [State.load_of_fits h]; rfl⟩,
    State.load_of_too_large⟩

end Sys2Proof.Machine
end

section
/-! How CALL, RET and Fx0A end (R81, R82, R148), in each case with the state they leave: they are the instructions whose
meaning branches. -/

namespace Sys2Proof.Machine

variable {s t : State}

/-- CALL faults on a full stack, and else ends at its target after the push. -/
theorem exec_call_next {nnn : Addr} (h : exec (.call nnn) s = .next t) :
    (s.sp.val = 16 ∧ t = s.latched .stackOverflow) ∨
      ∃ u, s.push (s.pc + 2#16) = some u ∧ t = u.ended (wordOfAddr nnn) := by
  change execCall nnn s = .next t at h
  unfold execCall at h
  split at h
  next hpush =>
    cases h
    exact .inl ⟨State.push_eq_none_iff.mp hpush, rfl⟩
  next u hpush =>
    cases h
    exact .inr ⟨u, hpush, rfl⟩

/-- RET faults on an empty stack, and else ends at the popped entry. -/
theorem exec_ret_next (h : exec .ret s = .next t) :
    (s.sp.val = 0 ∧ t = s.latched .stackUnderflow) ∨ ∃ a u, s.pop = some (a, u) ∧ t = u.ended a := by
  change execRet s = .next t at h
  unfold execRet at h
  split at h
  next hpop =>
    cases h
    exact .inl ⟨State.pop_eq_none_iff.mp hpop, rfl⟩
  next a u hpop =>
    cases h
    exact .inr ⟨a, u, hpop, rfl⟩

/-- Fx0A waits with no key down, and else writes one register. -/
theorem exec_ldVxK_next {x : Reg} (h : exec (.ldVxK x) s = .next t) :
    (s.lowestKey = none ∧ t = s.answering .waitingForKey) ∨
      ∃ k, s.lowestKey = some k ∧ t = (s.setReg x (keyByte k)).ended (s.pc + 2#16) := by
  cases hkey : s.lowestKey with
  | none =>
    rw [exec_ldVxK_of_no_key hkey] at h
    cases h
    exact .inl ⟨rfl, rfl⟩
  | some k =>
    rw [exec_ldVxK_of_lowestKey hkey] at h
    cases h
    exact .inr ⟨k, rfl, rfl⟩

end Sys2Proof.Machine
end

section
/-! The invariant (10_state.md rule R29): it holds after reset, every shared operation keeps it, so every instruction
and every operation of the host does; and the obligations on it. -/

namespace Sys2Proof.Machine

variable {s t : State}

/-- Settles O7: no cell of RAM is listed, the stack is zero, `I` and `PC` are numbers. -/
theorem resetMeetsInvariant : Obligations.ResetMeetsInvariant :=
  ⟨by decide, by decide, fun k => .inl (State.stack_reset k), reset_ram_wf⟩

/-! ### What keeps the invariant -/

/-- The invariant speaks of four items only. -/
theorem State.Inv.congr (h : s.Inv) (hi : t.i = s.i) (hpc : t.pc = s.pc) (hstack : t.stack = s.stack)
    (hram : t.ram = s.ram) : t.Inv :=
  ⟨hi ▸ h.i_le, hpc ▸ h.pc_le, hstack ▸ h.stack_ok, hram ▸ h.ram_wf⟩

theorem State.Inv.setI (h : s.Inv) {w : Word16} (hw : w.toNat ≤ 0xFFF) : (s.setI w).Inv :=
  ⟨hw, h.pc_le, h.stack_ok, h.ram_wf⟩

theorem State.Inv.storeBytes (h : s.Inv) (bs : List Byte) : (s.storeBytes bs).Inv :=
  ⟨h.i_le, h.pc_le, h.stack_ok, s.wf_storeBytes bs h.ram_wf⟩

/-- The end of an instruction at `p`, after it has written none of the four items. -/
theorem State.Inv.ended (h : s.Inv) {p : Word16} (hp : p.toNat ≤ 0x10FE) : (s.ended p).Inv :=
  ⟨h.i_le, hp, h.stack_ok, h.ram_wf⟩

/-- R16: what is written to `I` is reduced to 12 bits, or is an address of the font. -/
theorem wordOfAddr_le (nnn : Addr) : (wordOfAddr nnn).toNat ≤ 0xFFF := by
  rw [wordOfAddr_toNat]
  omega

theorem indexSum_le (i : Word16) (b : Byte) : (indexSum i b).toNat ≤ 0xFFF := by
  rw [indexSum_toNat]
  omega

theorem glyphAddress_le (b : Byte) : (glyphAddress b).toNat ≤ 0xFFF := by
  have hnibble : b.toNat &&& 0x0F ≤ 0x0F := Nat.and_le_right
  rw [glyphAddress_toNat]
  omega

/-- R14: from a `PC` at which a word can be fetched, a skip leads to 0x1002 at most; the greatest target, 0x10FE, is
that of Bnnn. -/
theorem skipTarget_le {pc : Word16} (h : pc.toNat ≤ 0xFFE) (taken : Bool) : (skipTarget pc taken).toNat ≤ 0x10FE := by
  unfold skipTarget
  split <;> rw [BitVec.toNat_add] <;> simp <;> omega

theorem offsetTarget_toNat (nnn : Addr) (b : Byte) : (offsetTarget nnn b).toNat = nnn.toNat + b.toNat := by
  rw [offsetTarget, BitVec.toNat_ofNat]
  omega

theorem offsetTarget_le (nnn : Addr) (b : Byte) : (offsetTarget nnn b).toNat ≤ 0x10FE := by
  rw [offsetTarget_toNat]
  omega

/-- The advance is the target of a skip that is not taken. -/
theorem add_two_le {pc : Word16} (h : pc.toNat ≤ 0xFFE) : (pc + 2#16).toNat ≤ 0x10FE := skipTarget_le h false

/-- An instruction that writes none of the four items but `PC`. -/
theorem State.Inv.ended_congr (h : s.Inv) (hp : s.pc.toNat ≤ 0xFFE) (hi : t.i = s.i) (hpc : t.pc = s.pc)
    (hstack : t.stack = s.stack) (hram : t.ram = s.ram) : (t.ended (t.pc + 2#16)).Inv :=
  (h.congr hi hpc hstack hram).ended (hpc ▸ add_two_le hp)

/-- R17: CALL pushes the address after itself, 0x002 to 0x1000. -/
theorem State.Inv.push (h : s.Inv) (hp : s.pc.toNat ≤ 0xFFE) (ht : s.push (s.pc + 2#16) = some t) : t.Inv := by
  obtain ⟨-, -, hstack, hframe⟩ := State.push_eq_some ht
  have hentry : StackEntryOk (s.pc + 2#16) := by
    right
    rw [BitVec.toNat_add]
    simp
    omega
  rw [hframe]
  refine ⟨h.i_le, h.pc_le, fun k => ?_, h.ram_wf⟩
  show StackEntryOk t.stack[k]
  rw [hstack k]
  split
  · exact hentry
  · exact h.stack_ok k

/-- R82: the popped entry is an address CALL has pushed, or 0. -/
theorem State.Inv.pop {a : Word16} (h : s.Inv) (ht : s.pop = some (a, t)) : t.Inv ∧ a.toNat ≤ 0x10FE := by
  obtain ⟨-, -, ⟨k, -, rfl⟩, hframe⟩ := State.pop_eq_some ht
  refine ⟨hframe ▸ h.congr rfl rfl rfl rfl, ?_⟩
  rcases h.stack_ok k with hzero | ⟨-, hle⟩
  · rw [hzero]
    decide
  · omega

/-! ### Every instruction, every operation, every step -/

/-- Where a word can be fetched, every instruction keeps the invariant. -/
theorem State.Inv.exec (h : s.Inv) (hp : s.pc.toNat ≤ 0xFFE) {i : Instr} (ht : exec i s = .next t) : t.Inv := by
  have hnext := add_two_le hp
  have haddr (nnn : Addr) : (wordOfAddr nnn).toNat ≤ 0x10FE := (wordOfAddr_le nnn).trans (by decide)
  cases i
  case call nnn =>
    rcases exec_call_next ht with ⟨-, rfl⟩ | ⟨u, hpush, rfl⟩
    · exact h.congr rfl rfl rfl rfl
    · exact (h.push hp hpush).ended (haddr nnn)
  case ret =>
    rcases exec_ret_next ht with ⟨-, rfl⟩ | ⟨a, u, hpop, rfl⟩
    · exact h.congr rfl rfl rfl rfl
    · obtain ⟨hinv, hle⟩ := h.pop hpop
      exact hinv.ended hle
  case ldVxK x =>
    rcases exec_ldVxK_next ht with ⟨-, rfl⟩ | ⟨k, -, rfl⟩
    · exact h.congr rfl rfl rfl rfl
    · exact h.ended_congr hp (t := s.setReg x (keyByte k)) rfl rfl rfl rfl
  all_goals cases ht
  case jp nnn => exact h.ended (haddr nnn)
  case jpV0Nnn nnn => exact h.ended (offsetTarget_le nnn _)
  case seVxKk | sneVxKk | seVxVy | sneVxVy | skpVx | sknpVx => exact h.ended (skipTarget_le hp _)
  case ldINnn nnn => exact (h.setI (wordOfAddr_le nnn)).ended hnext
  case ldFVx x => exact (h.setI (glyphAddress_le _)).ended hnext
  case addIVx x => exact (h.setI (indexSum_le s.i (s.reg x))).ended_congr hp rfl rfl rfl rfl
  case ldBVx | ldMemVx => exact (h.storeBytes _).ended hnext
  case rndVxKk => exact h.ended_congr hp s.drawRnd_i s.drawRnd_pc s.drawRnd_stack s.drawRnd_ram
  case ldVxMem x =>
    exact h.ended_congr hp (s.loadRegs_i x) (s.loadRegs_pc x) (s.loadRegs_stack x) (s.loadRegs_ram x)
  all_goals exact h.ended_congr hp rfl rfl rfl rfl

theorem State.Inv.stepOne (h : s.Inv) (ht : stepOne s = .next t) : t.Inv := by
  rcases stepOne_next_cases ht with ⟨k, -, rfl⟩ | ⟨-, -, rfl⟩ | ⟨op, -, -, -, rfl⟩ | ⟨i, -, hp, -, hexec⟩
  · exact h.congr rfl rfl rfl rfl
  · exact h.congr rfl rfl rfl rfl
  · exact h.congr rfl rfl rfl rfl
  · exact h.exec hp hexec

theorem State.doReset_inv (s : State) : s.doReset.Inv := resetMeetsInvariant.congr rfl rfl rfl rfl

theorem State.load_inv (s : State) (rom : List Byte) : (s.load rom).Inv := by
  have hram := s.wf_load rom
  obtain ⟨hi, hpc, hstack, -⟩ := s.doReset_inv
  by_cases h : rom.length ≤ 3584
  · rw [State.load_of_fits h] at hram ⊢
    exact ⟨hi, hpc, hstack, hram⟩
  · rw [State.load_of_too_large (Nat.not_le.mp h)] at hram ⊢
    exact ⟨hi, hpc, hstack, hram⟩

theorem State.Inv.performOp (h : s.Inv) {op : HostOp} (ht : performOp op s = .next t) : t.Inv := by
  cases op
  case stepOne => exact h.stepOne ht
  all_goals cases ht
  case reset => exact s.doReset_inv
  case load rom => exact s.load_inv rom
  all_goals exact h.congr rfl rfl rfl rfl

/-- Settles O8: a step is an operation of the host or `step_one`, and each keeps the invariant. -/
theorem everyStepKeepsInvariant : Obligations.EveryStepKeepsInvariant := by
  intro s t h ht
  rcases step_next_cases ht with ⟨op, rest, -, hop⟩ | ⟨-, -, hone⟩
  · exact State.Inv.performOp (s := { s with pending := rest }) (h.congr rfl rfl rfl rfl) hop
  · exact h.stepOne hone

end Sys2Proof.Machine
end

section
/-! The frame of every instruction (R12, R15 and the rules of files 40 to 44), what it makes of VF and of `PC`, and the
obligations on them. -/

namespace Sys2Proof.Machine

open Sys2Proof.Claims

variable {s t : State} {regs : Reg → Prop} {items : List Item} {mem : Addr → Prop} {i : Instr}

/-! ### Frames of the shared operations -/

/-- A frame that gives up no byte holds for any bytes. -/
theorem ChangesOnly.anyByte (h : ChangesOnly regs items noByte s t) : ChangesOnly regs items mem s t :=
  h.mono (fun _ => id) (fun _ => id) (fun _ => False.elim)

/-- A frame that gives up a register survives a write of it. -/
theorem ChangesOnly.setReg (h : ChangesOnly regs items mem s t) {x : Reg} (hx : regs x) (b : Byte) :
    ChangesOnly regs items mem s (t.setReg x b) := by
  obtain ⟨hregs, hitems, hmem⟩ := h
  refine ⟨fun r hr => ?_, fun it hit => ?_, hmem⟩
  · have hne : r ≠ x := fun e => hr (e ▸ hx)
    rw [t.reg_setReg_of_ne b hne, hregs r hr]
  · have hsame := hitems it hit
    cases it <;> exact hsame

/-- The items that a control transfer, a fault or an answer of the step writes. -/
abbrev controlItems : List Item := [.stack, .sp, .pc, .fault, .result]

/-- An operation that writes control items at most changes only those of them that it does not keep. -/
theorem frame_controlItems
    (h : t = { s with stack := t.stack, sp := t.sp, pc := t.pc, fault := t.fault, result := t.result })
    (hkept : ∀ it ∈ controlItems, it ∉ items → it.Same s t) : ChangesOnly noReg items noByte s t := by
  have hother : ∀ it ∉ controlItems, it.Same s t := fun it hit => by
    rw [h]
    cases it
    case stack | sp | pc | fault | result => simp at hit
    case rng => exact ⟨rfl, rfl⟩
    all_goals rfl
  refine .of_ram (fun r _ => by rw [h]; rfl) (fun it hit => ?_) (by rw [h])
  by_cases hcontrol : it ∈ controlItems
  · exact hkept it hcontrol hit
  · exact hother it hcontrol

/-- A push or a pop writes the stack and `SP` at most. -/
theorem frame_stack (h : t = { s with stack := t.stack, sp := t.sp }) : ChangesOnly noReg [.stack, .sp] noByte s t :=
  frame_controlItems (by rw [h]) (by rw [h]; simp [Item.Same])

theorem frame_latched (s : State) (k : FaultKind) : ChangesOnly noReg [.fault, .result] noByte s (s.latched k) :=
  frame_controlItems rfl (by simp [Item.Same])

theorem frame_answering (s : State) (r : StepResult) : ChangesOnly noReg [.result] noByte s (s.answering r) :=
  frame_controlItems rfl (by simp [Item.Same])

theorem frame_drawRnd (s : State) : ChangesOnly regs [.rng] mem s s.drawRnd := by
  refine .of_ram (fun r _ => s.reg_drawRnd r) (fun it hit => ?_) s.drawRnd_ram
  cases it
  case rng => simp at hit
  all_goals simp [Item.Same]

/-! ### Every instruction -/

theorem exec_frame (h : exec i s = .next t) :
    ChangesOnly (writesReg i) (writesItem i) (bytesAtI s (storesAtI i)) s t := by
  cases i
  case call nnn =>
    rcases exec_call_next h with ⟨-, rfl⟩ | ⟨u, hpush, rfl⟩
    · exact (frame_latched s _).anyByte.mono (fun _ => id) (by simp [writesItem]) (fun _ => id)
    · obtain ⟨-, -, -, hframe⟩ := State.push_eq_some hpush
      exact ((frame_stack hframe).ended _).anyByte.mono (fun _ => id) (by simp [writesItem]) (fun _ => id)
  case ret =>
    rcases exec_ret_next h with ⟨-, rfl⟩ | ⟨a, u, hpop, rfl⟩
    · exact (frame_latched s _).anyByte.mono (fun _ => id) (by simp [writesItem]) (fun _ => id)
    · obtain ⟨-, -, -, hframe⟩ := State.pop_eq_some hpop
      exact ((frame_sp hframe).ended a).anyByte.mono (fun _ => id) (by simp [writesItem]) (fun _ => id)
  case ldVxK x =>
    rcases exec_ldVxK_next h with ⟨-, rfl⟩ | ⟨k, -, rfl⟩
    · exact (frame_answering s _).anyByte.mono (fun _ => False.elim) (by simp [writesItem]) (fun _ => id)
    · exact (frame_setReg_ended s x _ _).anyByte
  all_goals cases h
  case sys | jp | jpV0Nnn => exact (frame_ended s _).anyByte
  case seVxKk | sneVxKk | seVxVy | sneVxVy | skpVx | sknpVx => exact (frame_ended s _).anyByte
  case ldVxKk | addVxKk | ldVxVy | orVxVy | andVxVy | xorVxVy | ldVxDt => exact (frame_setReg_ended s _ _ _).anyByte
  case addVxVy | subVxVy | shrVxVy | subnVxVy | shlVxVy => exact (frame_setRegFlag_ended s _ _ _ _).anyByte
  case rndVxKk x kk => exact ((frame_drawRnd (regs := only x) s).setReg rfl _).ended _
  case cls => exact (frame_setFb s _).ended _
  case drwVxVyN => exact ((frame_setFb (regs := only 15) s _).setFlag rfl _).ended _
  case ldINnn | ldFVx => exact (frame_setI s _).ended _
  case addIVx => exact ((frame_setI (regs := only 15) s _).setFlag rfl _).ended _
  case ldDtVx => exact ((frame_setDt s _).ended _).anyByte
  case ldStVx => exact ((frame_setSt s _).ended _).anyByte
  case ldBVx => exact frame_storeBytes_ended s _ _
  case ldMemVx x =>
    have hframe := frame_storeBytes_ended s (s.regsUpTo x) (s.pc + 2#16)
    rw [s.length_regsUpTo x] at hframe
    exact hframe
  case ldVxMem x => exact (frame_loadRegs_ended s x _).anyByte

/-- Settles O57: the frame of each instruction is that of the operations it is made of. -/
theorem everyInstructionWritesOnlyWhatItsRuleNames : Obligations.EveryInstructionWritesOnlyWhatItsRuleNames :=
  fun _ _ _ => exec_frame

/-! ### VF (R12) -/

/-- A VF-writer ends with the write of the flag. -/
theorem exec_of_writesFlag (hw : writesFlag i) (h : exec i s = .next t) : ∃ f, t.reg 15 = flagByte f := by
  cases i
  case addVxVy | subVxVy | shrVxVy | subnVxVy | shlVxVy => cases h; exact ⟨_, State.reg_setRegFlag_flag ..⟩
  case addIVx | drwVxVyN => cases h; exact ⟨_, State.reg_setFlag_self ..⟩
  all_goals exact hw.elim

/-- R12: who writes VF writes it as a flag or has it for destination. -/
theorem writesReg_flag (h : writesReg i 15) : writesFlag i ∨ destIsVF i := by
  cases i
  case addVxVy | subVxVy | shrVxVy | subnVxVy | shlVxVy | addIVx | drwVxVyN => exact .inl trivial
  case ldVxKk | addVxKk | ldVxVy | orVxVy | andVxVy | xorVxVy | rndVxKk | ldVxDt | ldVxK => exact .inr h.symm
  case ldVxMem x => exact .inr (le_antisymm (Fin.le_last x) h)
  all_goals exact h.elim

/-- Settles O55: a VF-writer leaves a flag; any other instruction has VF in its frame unless VF is its destination. -/
theorem onlyFlagWritersTouchVF : Obligations.OnlyFlagWritersTouchVF := by
  intro i s t h
  refine ⟨fun hw => ?_, fun hflag hdest => ?_⟩
  · obtain ⟨f, hf⟩ := exec_of_writesFlag hw h
    exact hf ▸ flagByte_zero_or_one f
  · obtain ⟨hregs, -, -⟩ := exec_frame h
    exact hregs 15 fun hw => (writesReg_flag hw).elim hflag hdest

/-! ### `PC` (R15) -/

/-- An instruction that does not complete leaves `PC`: it waits or faults. -/
theorem exec_pc_of_not_ok (h : exec i s = .next t) (hr : t.result ≠ some .ok) : t.pc = s.pc := by
  rcases exec_next_cases h with ⟨hok, -⟩ | ⟨_, -, -, rfl⟩ | ⟨_, -, -, rfl⟩ | ⟨-, -, rfl⟩
  · exact absurd hok hr
  · rfl
  · rfl
  · rfl

theorem exec_waits (h : exec i s = .next t) (hr : t.result = some .waitingForKey) :
    ∃ x, i = .ldVxK x ∧ s.lowestKey = none ∧ t = s.answering .waitingForKey := by
  rcases exec_next_cases h with ⟨hok, -⟩ | hwait | ⟨_, -, -, rfl⟩ | ⟨-, -, rfl⟩
  · simp [hok] at hr
  · exact hwait
  · simp at hr
  · simp at hr

/-- An instruction that completes moves `PC` by the table. -/
theorem exec_pc_of_ok (h : exec i s = .next t) (hr : t.result = some .ok) {a : Word16}
    (ha : ∀ k : Fin 16, s.sp.val = k.val + 1 → a = s.stack[k]) : t.pc = newPC i s a := by
  cases i
  case call nnn =>
    rcases exec_call_next h with ⟨-, rfl⟩ | ⟨u, -, rfl⟩
    · simp at hr
    · exact wordOfAddr_eq_word nnn
  case ret =>
    rcases exec_ret_next h with ⟨-, rfl⟩ | ⟨b, u, hpop, rfl⟩
    · simp at hr
    · obtain ⟨hsp, -, ⟨k, hk, rfl⟩, -⟩ := State.pop_eq_some hpop
      exact (ha k (by omega)).symm
  case ldVxK x =>
    rcases exec_ldVxK_next h with ⟨-, rfl⟩ | ⟨k, -, rfl⟩
    · simp at hr
    · rfl
  all_goals cases h
  case jp nnn => exact wordOfAddr_eq_word nnn
  case jpV0Nnn nnn => rfl
  case seVxKk | seVxVy => exact skipTarget_of_iff (by simp)
  case sneVxKk | sneVxVy => exact skipTarget_of_iff (by simp)
  case skpVx | sknpVx => exact skipTarget_of_iff Iff.rfl
  case rndVxKk => exact congrArg (· + 2#16) s.drawRnd_pc
  case ldVxMem x => exact congrArg (· + 2#16) (s.loadRegs_pc x)
  all_goals rfl

/-- Settles O56, by how the instruction ends. -/
theorem everyInstructionChangesPCByTheTable : Obligations.EveryInstructionChangesPCByTheTable := by
  refine fun i s t h => ⟨fun hok _ ha => exec_pc_of_ok h hok ha, exec_pc_of_not_ok h, fun hwait => ?_⟩
  obtain ⟨x, hx, -, -⟩ := exec_waits h hwait
  exact ⟨x, hx⟩

end Sys2Proof.Machine
end

section
/-! Control transfer (40_control_transfer.md rules R80, R81, R88): the words of SYS, CALL and JP V0, CALL by its push,
RET after CALL, and the obligations on them. -/

namespace Sys2Proof.Machine

open Sys2Proof.Claims

variable {s t : State}

/-! ### The words (R65) -/

section Words

variable (nnn : Addr)

theorem decode_sys_word (hcls : nnn ≠ 0x0E0) (hret : nnn ≠ 0x0EE) :
    decode (word nnn.toNat) = .instr (.sys nnn) := by
  have hword : word (0x0000 + nnn.toNat) = encNNN 0x0 nnn := word_eq_encNNN 0x0 nnn
  rw [Nat.zero_add] at hword
  rw [hword, decode_encNNN_zero hcls hret]

theorem decode_call_word : decode (word (0x2000 + nnn.toNat)) = .instr (.call nnn) := by
  have hword : word (0x2000 + nnn.toNat) = encNNN 0x2 nnn := word_eq_encNNN 0x2 nnn
  rw [hword, decode_major2 (majorOf_encNNN 0x2 nnn), fieldNnn_encNNN]

theorem decode_jpV0Nnn_word : decode (word (0xB000 + nnn.toNat)) = .instr (.jpV0Nnn nnn) := by
  have hword : word (0xB000 + nnn.toNat) = encNNN 0xB nnn := word_eq_encNNN 0xB nnn
  rw [hword, decode_majorB (majorOf_encNNN 0xB nnn), fieldNnn_encNNN]

end Words

/-- Settles O22: SYS is the end of an instruction at the next one. -/
theorem sysOnlyAdvancesPC : Obligations.SysOnlyAdvancesPC := fun nnn s hcls hret =>
  ⟨decode_sys_word nnn hcls hret, s.finish_completed (s.pc + 2)⟩

/-- Settles O28: JP V0 is the end of an instruction at the sum, which 16 bits hold whole. -/
theorem jumpWithOffsetAddsV0 : Obligations.JumpWithOffsetAddsV0 := fun nnn s =>
  ⟨decode_jpV0Nnn_word nnn, s.ended (offsetTarget nnn (s.reg 0)), rfl, offsetTarget_toNat nnn (s.reg 0), rfl,
    frame_ended s _⟩

/-! ### CALL (R81) -/

theorem exec_call_of_full {nnn : Addr} (h : s.sp.val = 16) :
    exec (.call nnn) s = .next (s.latched .stackOverflow) := by
  change execCall nnn s = _
  rw [execCall, State.push_eq_none_iff.mpr h]
  rfl

/-- With a free cell a push succeeds. -/
theorem State.exists_push_of_room (a : Word16) (h : s.sp.val ≠ 16) : ∃ u, s.push a = some u := by
  cases hpush : s.push a with
  | none => exact absurd (State.push_eq_none_iff.mp hpush) h
  | some u => exact ⟨u, rfl⟩

theorem exec_call_of_push {nnn : Addr} (h : s.push (s.pc + 2#16) = some t) :
    exec (.call nnn) s = .next (t.ended (wordOfAddr nnn)) := by
  change execCall nnn s = _
  rw [execCall, h]
  rfl

/-- Settles O23, by whether a cell is free: the end of an instruction after the push, or the fault. -/
theorem callPushesTheReturnAddress : Obligations.CallPushesTheReturnAddress := by
  refine fun nnn s => ⟨decode_call_word nnn, fun hroom => ?_, exec_call_of_full⟩
  obtain ⟨u, hpush⟩ := State.exists_push_of_room (s.pc + 2#16) hroom
  obtain ⟨-, hsp, hstack, hframe⟩ := State.push_eq_some hpush
  exact ⟨u.ended (wordOfAddr nnn), exec_call_of_push hpush, ⟨wordOfAddr_eq_word nnn, rfl⟩, hstack, hsp,
    (frame_stack hframe).ended _⟩

/-! ### RET after CALL -/

/-- Settles O29: the pop takes back the cell that the push has written and the `SP` that it has raised. -/
theorem callThenRetReturns : Obligations.CallThenRetReturns := by
  intro nnn s hroom
  obtain ⟨u, hpush⟩ := State.exists_push_of_room (s.pc + 2#16) hroom
  obtain ⟨hlt, hsp, hstack, hframe⟩ := State.push_eq_some hpush
  refine ⟨u.ended (wordOfAddr nnn), exec_call_of_push hpush, fun pc => ?_⟩
  obtain ⟨w, hpop, hwsp, hwframe⟩ := State.exists_pop_of_sp (s := { u.ended (wordOfAddr nnn) with pc := pc })
    (k := ⟨s.sp.val, hlt⟩) hsp
  have hw : w = { s with stack := u.stack, pc := pc, result := some .ok } := by
    have hspeq : w.sp = s.sp := Fin.ext hwsp
    rw [hwframe, hspeq, hframe]
    rfl
  refine ⟨w.ended _, exec_ret_of_pop hpop, ⟨(hstack ⟨s.sp.val, hlt⟩).trans (if_pos rfl), rfl⟩, fun k hk => ?_, ?_⟩
  · rw [State.ended_stack, hw]
    exact (hstack k).trans (if_neg hk)
  · rw [hw]
    exact frame_controlItems rfl (by simp [Item.Same])

end Sys2Proof.Machine
end

section
/-! One step (30_encoding.md rule R60, 60_exceptions.md): what it runs, where faults come from (R161), that they are
precise (R164), the wait (R168), the end of a run (R206), a walk through zeroed memory (R190), and the obligations on
them. -/

namespace Sys2Proof.Machine

open Sys2Proof.Claims

variable {s t : State} {i : Instr}

/-! ### What a step runs -/

theorem step_of_pending {op : HostOp} {rest : List HostOp} (h : s.pending = op :: rest) :
    step s = performOp op { s with pending := rest } := by
  rw [step, h]

theorem step_of_running (hf : s.fault = none) (h : s.pending = []) : step s = stepOne s := by
  rw [step, h]
  simp only [hf]

theorem step_of_halted {k : FaultKind} (hf : s.fault = some k) (h : s.pending = []) : step s = .fault (.halted k) := by
  rw [step, h]
  simp only [hf]

theorem stepOne_of_halted {k : FaultKind} (hf : s.fault = some k) :
    stepOne s = .next (s.answering (.fault k)) := by
  rw [stepOne, hf]

theorem stepOne_of_illegalWord (hf : s.fault = none) (hp : s.pc.toNat ≤ 0xFFE) (h : illegalWord s.fetchWord) :
    stepOne s = .next (s.latched (.illegalOpcode s.fetchWord)) := by
  rw [stepOne, hf]
  simp only [if_neg (Nat.not_lt.mpr hp), decode_of_illegalWord h]
  rfl

/-- Settles O11, by the pending operations. -/
theorem stepRunsTheDecodedInstruction : Obligations.StepRunsTheDecodedInstruction := fun s _ hf hp hd =>
  ⟨fun hnone => (step_of_running hf hnone).trans (stepOne_of_decode hf hp hd),
    fun rest hone => (step_of_pending hone).trans
      (stepOne_of_decode (s := { s with pending := rest }) hf hp hd),
    fun _ _ => step_of_pending⟩

/-- Settles O13: the decoder labels the word illegal, and the step latches the label. -/
theorem illegalWordFaultsAtItsAddress : Obligations.IllegalWordFaultsAtItsAddress := fun _ => stepOne_of_illegalWord

/-! ### A next state always (log entry 1) -/

theorem exec_exists_next (i : Instr) (s : State) : ∃ t, exec i s = .next t := by
  cases i
  case call nnn =>
    by_cases hfull : s.sp.val = 16
    · exact ⟨_, exec_call_of_full hfull⟩
    · obtain ⟨u, hpush⟩ := State.exists_push_of_room (s.pc + 2#16) hfull
      exact ⟨_, exec_call_of_push hpush⟩
  case ret =>
    by_cases hempty : s.sp.val = 0
    · exact ⟨_, exec_ret_of_empty hempty⟩
    · obtain ⟨u, hpop, -, -⟩ := State.exists_pop_of_sp (s := s) (k := ⟨s.sp.val - 1, by omega⟩) (by simp; omega)
      exact ⟨_, exec_ret_of_pop hpop⟩
  case ldVxK x =>
    cases hkey : s.lowestKey with
    | none => exact ⟨_, exec_ldVxK_of_no_key hkey⟩
    | some k => exact ⟨_, exec_ldVxK_of_lowestKey hkey⟩
  all_goals exact ⟨_, rfl⟩

theorem stepOne_exists_next (s : State) : ∃ t, stepOne s = .next t := by
  cases hf : s.fault with
  | some k => exact ⟨_, stepOne_of_halted hf⟩
  | none =>
    rcases Nat.lt_or_ge 0xFFE s.pc.toNat with hbad | hp
    · exact ⟨_, stepOne_of_badPC hf hbad⟩
    · by_cases hill : illegalWord s.fetchWord
      · exact ⟨_, stepOne_of_illegalWord hf hp hill⟩
      · obtain ⟨i, hd⟩ := (illegalIff_decode s.fetchWord).2 hill
        rw [stepOne_of_decode hf hp hd]
        exact exec_exists_next i s

theorem performOp_exists_next (op : HostOp) (s : State) : ∃ t, performOp op s = .next t := by
  cases op
  case stepOne => exact stepOne_exists_next s
  all_goals exact ⟨_, rfl⟩

/-- Settles O17, by the pending operations and then the latch. -/
theorem stepStopsExactlyWhenHaltedForGood : Obligations.StepStopsExactlyWhenHaltedForGood := by
  intro s
  cases hpending : s.pending with
  | cons op rest =>
    obtain ⟨t, ht⟩ := performOp_exists_next op { s with pending := rest }
    have hstep : step s = .next t := (step_of_pending hpending).trans ht
    simp [hstep]
  | nil =>
    cases hf : s.fault with
    | some k => simp [step_of_halted hf hpending]
    | none =>
      obtain ⟨t, ht⟩ := stepOne_exists_next s
      have hstep : step s = .next t := (step_of_running hf hpending).trans ht
      simp [hstep]

/-! ### The halted machine (R165) -/

/-- Of the operations of the host only `reset` and `load` change a latched fault. -/
theorem performOp_of_halted {k : FaultKind} {op : HostOp} (hf : s.fault = some k) (h : performOp op s = .next t) :
    t.fault = some k ∨ op = .reset ∨ ∃ rom, op = .load rom := by
  cases op
  case reset => exact .inr (.inl rfl)
  case load rom => exact .inr (.inr ⟨rom, rfl⟩)
  case stepOne =>
    cases (stepOne_of_halted hf).symm.trans h
    exact .inl hf
  all_goals
    cases h
    exact .inl hf

/-- Settles O16, by the operations of the host. -/
theorem haltedUntilResetOrLoad : Obligations.HaltedUntilResetOrLoad := fun s _ hf =>
  ⟨stepOne_of_halted hf, fun _ _ => performOp_of_halted hf, rfl, fun _ _ => rfl, rfl, s.doReset, rfl, rfl⟩

/-! ### Faults (R161, R164) -/

/-- The sources of the four faults of a step; a step that has none of them executes an instruction and leaves the
latch alone. -/
theorem stepOne_fault_cases (hf : s.fault = none) (h : stepOne s = .next t) :
    (0xFFE < s.pc.toNat ∧ t = s.latched .badPC) ∨
    (s.pc.toNat ≤ 0xFFE ∧ illegalWord s.fetchWord ∧ t = s.latched (.illegalOpcode s.fetchWord)) ∨
    (s.pc.toNat ≤ 0xFFE ∧ s.sp.val = 16 ∧ (∃ nnn, decode s.fetchWord = .instr (.call nnn)) ∧
      t = s.latched .stackOverflow) ∨
    (s.pc.toNat ≤ 0xFFE ∧ s.sp.val = 0 ∧ decode s.fetchWord = .instr .ret ∧ t = s.latched .stackUnderflow) ∨
    (s.pc.toNat ≤ 0xFFE ∧ (∃ i, decode s.fetchWord = .instr i ∧ exec i s = .next t) ∧ t.fault = none) := by
  rcases stepOne_next_cases h with ⟨k, hk, -⟩ | ⟨-, hbad, rfl⟩ | ⟨op, -, hp, hd, rfl⟩ | ⟨i, -, hp, hd, hexec⟩
  · simp [hf] at hk
  · exact .inl ⟨hbad, rfl⟩
  · obtain ⟨hill, rfl⟩ := illegalWord_of_decode hd
    exact .inr (.inl ⟨hp, hill, rfl⟩)
  · rcases exec_next_cases hexec with ⟨-, hkept⟩ | ⟨_, -, -, rfl⟩ | ⟨nnn, rfl, hsp, rfl⟩ | ⟨rfl, hsp, rfl⟩
    · exact .inr (.inr (.inr (.inr ⟨hp, ⟨i, hd, hexec⟩, hkept.trans hf⟩)))
    · exact .inr (.inr (.inr (.inr ⟨hp, ⟨i, hd, hexec⟩, hf⟩)))
    · exact .inr (.inr (.inl ⟨hp, hsp, ⟨nnn, hd⟩, rfl⟩))
    · exact .inr (.inr (.inr (.inl ⟨hp, hsp, hd, rfl⟩)))

/-- Settles O14: the sources of a step's faults, and that an instruction but CALL and RET ends in no fault. -/
theorem faultsComeOnlyFromTheirSources : Obligations.FaultsComeOnlyFromTheirSources := by
  refine ⟨fun s t k hf h hk => ?_, fun i s hcall hret => ?_⟩
  · rcases stepOne_fault_cases hf h with
      ⟨hbad, rfl⟩ | ⟨hp, hill, rfl⟩ | ⟨hp, hsp, hd, rfl⟩ | ⟨hp, hsp, hd, rfl⟩ | ⟨-, -, hnone⟩
    · cases hk
      exact .inl ⟨rfl, hbad⟩
    · cases hk
      exact .inr (.inl ⟨rfl, hp, hill⟩)
    · cases hk
      exact .inr (.inr (.inl ⟨rfl, hp, hsp, hd⟩))
    · cases hk
      exact .inr (.inr (.inr ⟨rfl, hp, hsp, hd⟩))
    · simp [hnone] at hk
  · obtain ⟨t, ht⟩ := exec_exists_next i s
    refine ⟨t, ht, ?_⟩
    rcases exec_next_cases ht with ⟨hok, hkept⟩ | ⟨x, rfl, -, rfl⟩ | ⟨nnn, rfl, -, -⟩ | ⟨rfl, -, -⟩
    · exact ⟨.inl hok, hkept⟩
    · exact ⟨.inr ⟨rfl, x, rfl⟩, rfl⟩
    · exact absurd rfl (hcall nnn)
    · exact absurd rfl hret

/-- Settles O15: from each of its sources a fault is latched and nothing else is written. -/
theorem faultsArePrecise : Obligations.FaultsArePrecise := by
  intro s t k hf h hk
  rcases stepOne_fault_cases hf h with
    ⟨-, rfl⟩ | ⟨-, -, rfl⟩ | ⟨-, -, -, rfl⟩ | ⟨-, -, -, rfl⟩ | ⟨-, -, hnone⟩
  case inr.inr.inr.inr => simp [hnone] at hk
  all_goals
    cases hk
    rfl

/-- The words of CALL are those of major opcode 2. -/
theorem decode_eq_call_iff {op : Word16} : (∃ nnn, decode op = .instr (.call nnn)) ↔ op.toNat / 0x1000 = 2 := by
  rw [← majorOf_toNat]
  constructor
  · rintro ⟨nnn, hd⟩
    obtain ⟨-, rfl⟩ := decode_eq_instr_iff.mp hd
    exact congrArg BitVec.toNat (majorOf_encNNN 0x2 nnn)
  · intro hm
    exact ⟨fieldNnn op, decode_major2 (BitVec.eq_of_toNat_eq hm)⟩

theorem decode_eq_ret_iff {op : Word16} : decode op = .instr .ret ↔ op = 0x00EE := by
  rw [decode_eq_instr_iff]
  exact (and_iff_right rfl).trans eq_comm

/-- The conditions under which a step latches no fault. -/
theorem stepOne_fault_eq_none_iff (hf : s.fault = none) (h : stepOne s = .next t) :
    t.fault = none ↔ s.pc.toNat ≤ 0xFFE ∧ ¬ illegalWord s.fetchWord ∧
      ¬ (s.fetchWord.toNat / 0x1000 = 2 ∧ s.sp.val = 16) ∧ ¬ (s.fetchWord = 0x00EE ∧ s.sp.val = 0) := by
  rw [← decode_eq_call_iff, ← decode_eq_ret_iff]
  constructor
  · intro hnone
    rcases stepOne_fault_cases hf h with
      ⟨-, rfl⟩ | ⟨-, -, rfl⟩ | ⟨-, -, -, rfl⟩ | ⟨-, -, -, rfl⟩ | ⟨hp, ⟨i, hd, hexec⟩, -⟩
    case inr.inr.inr.inr =>
      refine ⟨hp, not_illegalWord_of_decode hd, ?_, ?_⟩
      · rintro ⟨⟨nnn, hcall⟩, hfull⟩
        rw [stepOne_of_decode hf hp hcall, exec_call_of_full hfull] at h
        cases h
        simp at hnone
      · rintro ⟨hret, hempty⟩
        rw [stepOne_of_decode hf hp hret, exec_ret_of_empty hempty] at h
        cases h
        simp at hnone
    all_goals simp at hnone
  · rintro ⟨hp, hlegal, hcall, hret⟩
    rcases stepOne_fault_cases hf h with
      ⟨hbad, -⟩ | ⟨-, hill, -⟩ | ⟨-, hsp, hd, -⟩ | ⟨-, hsp, hd, -⟩ | ⟨-, -, hnone⟩
    · omega
    · exact absurd hill hlegal
    · exact absurd ⟨hd, hsp⟩ hcall
    · exact absurd ⟨hd, hsp⟩ hret
    · exact hnone

/-- Settles O20: with nothing pending a step is `step_one`. -/
theorem stepLatchesNoFaultOnALegalWord : Obligations.StepLatchesNoFaultOnALegalWord := by
  intro s hf hpending
  obtain ⟨t, ht⟩ := stepOne_exists_next s
  exact ⟨t, (step_of_running hf hpending).trans ht, stepOne_fault_eq_none_iff hf ht⟩

/-! ### The wait (R148, R168) -/

theorem State.atKeyWait_iff : s.atKeyWait = true ↔
    s.pc.toNat ≤ 0xFFE ∧ (∃ x, decode s.fetchWord = .instr (.ldVxK x)) ∧ s.lowestKey = none := by
  unfold State.atKeyWait
  split
  next hbad => simp; omega
  next hp =>
    have hp' : s.pc.toNat ≤ 0xFFE := Nat.not_lt.mp hp
    split
    next x hd => simp [hd, hp']
    next i hi hd =>
      have hne : ¬ ∃ x, i = .ldVxK x := fun ⟨x, hx⟩ => hi x hx
      simpa [hd] using fun _ x hx => absurd ⟨x, hx⟩ hne
    next op hd => simp [hd]

theorem State.condition_eq_waiting_iff (hf : s.fault = none) : s.condition = .waiting ↔ s.atKeyWait = true := by
  rw [State.condition, hf]
  cases s.atKeyWait <;> simp

/-- A machine at a key wait waits in the next step. -/
theorem stepOne_of_atKeyWait (hf : s.fault = none) (h : s.atKeyWait = true) :
    stepOne s = .next (s.answering .waitingForKey) := by
  obtain ⟨hp, ⟨x, hd⟩, hkey⟩ := State.atKeyWait_iff.mp h
  rw [stepOne_of_decode hf hp hd, exec_ldVxK_of_no_key hkey]
  rfl

/-- A step that returns `WaitingForKey` ran Fx0A with no key down. -/
theorem atKeyWait_of_stepOne (hf : s.fault = none) (h : stepOne s = .next t) (hr : t.result = some .waitingForKey) :
    s.atKeyWait = true := by
  rcases stepOne_fault_cases hf h with
    ⟨-, rfl⟩ | ⟨-, -, rfl⟩ | ⟨-, -, -, rfl⟩ | ⟨-, -, -, rfl⟩ | ⟨hp, ⟨i, hd, hexec⟩, -⟩
  case inr.inr.inr.inr =>
    obtain ⟨x, rfl, hkey, -⟩ := exec_waits hexec hr
    exact State.atKeyWait_iff.mpr ⟨hp, ⟨x, hd⟩, hkey⟩
  all_goals simp at hr

/-- Settles O18: the condition and the step both ask for Fx0A at `PC` with no key down. -/
theorem waitingMeansTheStepChangesNothing : Obligations.WaitingMeansTheStepChangesNothing := by
  intro s hf
  rw [State.condition_eq_waiting_iff hf]
  exact ⟨⟨fun h => ⟨_, stepOne_of_atKeyWait hf h, rfl⟩, fun ⟨_, ht, hr⟩ => atKeyWait_of_stepOne hf ht hr⟩,
    stepOne_of_atKeyWait hf⟩

/-! ### Zeroed memory (R80, R190) -/

theorem Item.same_trans {it : Item} {u : State} (h : it.Same s t) (h' : it.Same t u) : it.Same s u := by
  cases it
  case rng => exact ⟨h'.1.trans h.1, h'.2.trans h.2⟩
  all_goals exact Eq.trans h' h

theorem ChangesOnly.refl {regs : Reg → Prop} {items : List Item} {mem : Addr → Prop} (s : State) :
    ChangesOnly regs items mem s s :=
  ⟨fun _ _ => rfl, fun it _ => it.same_refl s, fun _ _ => rfl⟩

theorem ChangesOnly.trans {regs : Reg → Prop} {items : List Item} {mem : Addr → Prop} {u : State}
    (h : ChangesOnly regs items mem s t) (h' : ChangesOnly regs items mem t u) : ChangesOnly regs items mem s u := by
  obtain ⟨hregs, hitems, hmem⟩ := h
  obtain ⟨hregs', hitems', hmem'⟩ := h'
  exact ⟨fun r hr => (hregs' r hr).trans (hregs r hr), fun it hit => Item.same_trans (hitems it hit) (hitems' it hit),
    fun a ha => (hmem' a ha).trans (hmem a ha)⟩

/-- Two zero bytes are SYS 0, which only adds 2 to `PC`. -/
theorem step_of_zero_bytes (hf : s.fault = none) (hpending : s.pending = []) (hp : s.pc.toNat ≤ 0xFFE)
    (hzero : ∀ a : Addr, s.pc.toNat ≤ a.toNat → a.toNat < s.pc.toNat + 2 → s.memRead a = 0) :
    step s = .next (s.ended (s.pc + 2#16)) := by
  have hbyte (j : Nat) (hj : j < 2) : s.memRead (BitVec.ofNat 12 (s.pc.toNat + j)) = 0 := by
    have haddr : (BitVec.ofNat 12 (s.pc.toNat + j)).toNat = s.pc.toNat + j := Nat.mod_eq_of_lt (by omega)
    exact hzero _ (by omega) (by omega)
  have hfetch : s.fetchWord = 0x0000 := by
    rw [State.fetchWord, hbyte 1 (by omega), show s.pc.toNat = s.pc.toNat + 0 from rfl, hbyte 0 (by omega)]
    rfl
  have hsys : decode s.fetchWord = .instr (.sys 0) := by rw [hfetch]; decide
  rw [step_of_running hf hpending, stepOne_of_decode hf hp hsys]
  rfl

/-- Settles O21, by induction on the number of steps: the first is SYS 0, and the zero bytes behind it are walked
through by the others. -/
theorem zeroedMemoryIsWalkedThrough : Obligations.ZeroedMemoryIsWalkedThrough := by
  intro n
  induction n with
  | zero => exact fun s _ _ _ _ => ⟨s, rfl, rfl, .refl s⟩
  | succ n ih =>
    intro s hf hpending hend hzero
    have hpc : (s.pc + 2#16).toNat = s.pc.toNat + 2 := by
      rw [BitVec.toNat_add]
      exact Nat.mod_eq_of_lt (by simp; omega)
    have hstep := step_of_zero_bytes hf hpending (by omega) fun a hle hlt => hzero a hle (by omega)
    obtain ⟨t, hrun, htpc, hframe⟩ := ih (s.ended (s.pc + 2#16)) hf hpending (by rw [State.ended_pc]; omega)
      fun a hle hlt => hzero a (by rw [State.ended_pc] at hle; omega) (by rw [State.ended_pc] at hlt; omega)
    refine ⟨t, ?_, by rw [htpc, State.ended_pc]; omega, (frame_ended s _).trans hframe⟩
    rw [run_succ, hstep]
    exact hrun

end Sys2Proof.Machine
end

section
/-! Copies, logic and random (41_load_alu.md rules R102 to R105, R111) and the key skips (44_keypad_timers.md rules
R146, R147): their words, the draw of a byte, and the obligations on them. -/

namespace Sys2Proof.Machine

open Sys2Proof.Claims

/-! ### The words (R65) -/

section Words

variable (x y : Reg) (kk : Byte)

theorem decode_ldVxVy_word : decode (word (0x8000 + 0x100 * x.val + 0x10 * y.val)) = .instr (.ldVxVy x y) :=
  (decode_major8_word 0x0 x y).trans (by simp [decode8])

theorem decode_orVxVy_word : decode (word (0x8001 + 0x100 * x.val + 0x10 * y.val)) = .instr (.orVxVy x y) :=
  (decode_major8_word 0x1 x y).trans (by simp [decode8])

theorem decode_andVxVy_word : decode (word (0x8002 + 0x100 * x.val + 0x10 * y.val)) = .instr (.andVxVy x y) :=
  (decode_major8_word 0x2 x y).trans (by simp [decode8])

theorem decode_xorVxVy_word : decode (word (0x8003 + 0x100 * x.val + 0x10 * y.val)) = .instr (.xorVxVy x y) :=
  (decode_major8_word 0x3 x y).trans (by simp [decode8])

theorem decode_rndVxKk_word : decode (word (0xC000 + 0x100 * x.val + kk.toNat)) = .instr (.rndVxKk x kk) := by
  have hword : word (0xC000 + 0x100 * x.val + kk.toNat) = encXKK 0xC x kk := word_eq_encXKK 0xC x kk
  rw [hword, decode_majorC (majorOf_encXKK 0xC x kk), fieldX_encXKK, fieldKk_encXKK]

/-- A word of major opcode E goes to the table of its low bytes. -/
theorem decode_majorE_word : decode (word (0xE000 + kk.toNat + 0x100 * x.val)) = decodeE (encXKK 0xE x kk) := by
  have hword : word (0xE000 + 0x100 * x.val + kk.toNat) = encXKK 0xE x kk := word_eq_encXKK 0xE x kk
  rw [Nat.add_right_comm, hword, decode_majorE (majorOf_encXKK 0xE x kk)]

theorem decode_skpVx_word : decode (word (0xE09E + 0x100 * x.val)) = .instr (.skpVx x) :=
  (decode_majorE_word x 0x9E).trans (by simp [decodeE])

theorem decode_sknpVx_word : decode (word (0xE0A1 + 0x100 * x.val)) = .instr (.sknpVx x) :=
  (decode_majorE_word x 0xA1).trans (by simp [decodeE])

end Words

/-- Settles O32: each of the four writes one register, with its result. -/
theorem copyAndLogicLeaveVF : Obligations.CopyAndLogicLeaveVF := fun x y s =>
  ⟨⟨decode_ldVxVy_word x y, s.finishNext_setReg_completed x (P := (· = s.reg y)) rfl⟩,
    ⟨decode_orVxVy_word x y, s.finishNext_setReg_completed x (P := (· = s.reg x ||| s.reg y)) rfl⟩,
    ⟨decode_andVxVy_word x y, s.finishNext_setReg_completed x (P := (· = s.reg x &&& s.reg y)) rfl⟩,
    ⟨decode_xorVxVy_word x y, s.finishNext_setReg_completed x (P := (· = s.reg x ^^^ s.reg y)) rfl⟩⟩

/-- Settles O38: RND writes one register after the draw of one byte, and the draw is by whether the host has fixed
one. -/
theorem randomIsOneMaskedByteOfThePort : Obligations.RandomIsOneMaskedByteOfThePort := by
  refine fun x kk s => ⟨decode_rndVxKk_word x kk, _, rfl, fun b bs hfed => ?_, fun hfree => ?_,
    ⟨congrArg (· + 2#16) s.drawRnd_pc, rfl⟩, ((frame_drawRnd (regs := only x) s).setReg rfl _).ended _⟩
  · obtain ⟨hb, hfeed, hdraws⟩ := State.drawRnd_fed hfed
    exact ⟨by rw [State.reg_ended, State.reg_setReg_self, hb], hfeed, hdraws⟩
  · obtain ⟨hb, hfeed, hdraws⟩ := State.drawRnd_free hfree
    exact ⟨by rw [State.reg_ended, State.reg_setReg_self, hb], hfeed, hdraws⟩

theorem lowNibble_eq_mod (b : Byte) : b.toNat &&& 0x0F = b.toNat % 16 := Nat.and_two_pow_sub_one_eq_mod b.toNat 4

/-- R146: the key a register names is that of its low nibble. -/
theorem keyNumber_eq_of_and {b : Byte} {k : Fin 16} (h : k.val = b.toNat &&& 0x0F) : keyNumber b = k :=
  Fin.ext (by rw [h, lowNibble_eq_mod]; rfl)

/-- Settles O51: the key skips are skips, by whether the key is down. -/
theorem skipsOnAKey : Obligations.SkipsOnAKey := by
  intro x s k hk
  obtain rfl := keyNumber_eq_of_and hk
  have hskip : (!s.keyDown (keyNumber (s.reg x))) = true ↔ ¬ s.keyDown (keyNumber (s.reg x)) = true := by simp
  have hcompleted := s.finish_skip_completed hskip
  rw [ite_not] at hcompleted
  exact ⟨⟨decode_skpVx_word x, s.finish_skip_completed Iff.rfl⟩, decode_sknpVx_word x, hcompleted⟩

end Sys2Proof.Machine
end

section
/-! The memory instructions (42_index_memory.md rules R122 to R126): their words, what a store at `I` leaves, a load of
what was stored, the fetch of it, the rows of a glyph, and the obligations on them. -/

namespace Sys2Proof.Machine

open Sys2Proof.Claims

/-! ### The words (R65) -/

section Words

variable (x : Reg)

theorem decode_ldBVx_word : decode (word (0xF033 + 0x100 * x.val)) = .instr (.ldBVx x) :=
  (decode_majorF_word x 0x33).trans (by simp [decodeF])

theorem decode_ldMemVx_word : decode (word (0xF055 + 0x100 * x.val)) = .instr (.ldMemVx x) :=
  (decode_majorF_word x 0x55).trans (by simp [decodeF])

theorem decode_ldVxMem_word : decode (word (0xF065 + 0x100 * x.val)) = .instr (.ldVxMem x) :=
  (decode_majorF_word x 0x65).trans (by simp [decodeF])

end Words

/-! ### Stores (R124, R125) -/

/-- An instruction that stores the bytes `bs` at `I`: it completes at the next instruction, changes no byte but those
it stores to, and nothing else. -/
theorem State.finishNext_storeBytes_completed (s : State) {bs : List Byte} {n : Nat} (hn : bs.length = n) :
    (∀ a : Addr, (∀ k < n, a ≠ s.ea k) → ((s.storeBytes bs).ended (s.pc + 2)).memRead a = s.memRead a) ∧
      Completed ((s.storeBytes bs).ended (s.pc + 2)) (s.pc + 2) ∧
      ChangesOnly noReg plain (bytesAtI s n) s ((s.storeBytes bs).ended (s.pc + 2)) := by
  subst hn
  exact ⟨fun a ha => s.memRead_storeBytes_of_ne ha, ⟨rfl, rfl⟩, frame_storeBytes_ended s bs _⟩

/-- R124: the three digits at their addresses. -/
theorem State.memRead_storeBytes_bcdDigits (s : State) (b : Byte) (hw : s.ram.wf = true) :
    ((s.storeBytes (bcdDigits b)).memRead (s.ea 0)).toNat = b.toNat / 100 ∧
      ((s.storeBytes (bcdDigits b)).memRead (s.ea 1)).toNat = b.toNat / 10 % 10 ∧
      ((s.storeBytes (bcdDigits b)).memRead (s.ea 2)).toNat = b.toNat % 10 := by
  have hstored (j : Nat) (hj : j < (bcdDigits b).length) := s.memRead_storeBytes hw (by simp) hj
  rw [hstored 0 (by simp), hstored 1 (by simp), hstored 2 (by simp)]
  have hbyte := b.isLt
  simp [bcdDigits]
  omega

/-- Settles O42: LD B stores the three digits. -/
theorem bcdStoresThreeDigits : Obligations.BcdStoresThreeDigits := fun x s =>
  ⟨decode_ldBVx_word x, _, rfl, s.memRead_storeBytes_bcdDigits (s.reg x),
    s.finishNext_storeBytes_completed (length_bcdDigits (s.reg x))⟩

/-- R125: each register up to `x` at its address. -/
theorem State.memRead_storeBytes_regsUpTo {s : State} {x r : Reg} (hw : s.ram.wf = true) (hr : r ≤ x) :
    (s.storeBytes (s.regsUpTo x)).memRead (s.ea r.val) = s.reg r := by
  have hlen : (s.regsUpTo x).length ≤ 16 := by rw [s.length_regsUpTo]; omega
  rw [s.memRead_storeBytes hw hlen (by rw [s.length_regsUpTo]; exact Nat.lt_succ_of_le hr)]
  exact s.getElem_regsUpTo hr

/-- Settles O43: LD to memory stores the registers. -/
theorem storeRegistersAtI : Obligations.StoreRegistersAtI := fun x s =>
  ⟨decode_ldMemVx_word x, _, rfl, fun hw _ hr => State.memRead_storeBytes_regsUpTo hw hr,
    s.finishNext_storeBytes_completed (s.length_regsUpTo x)⟩

/-! ### Loads (R126) -/

/-- Settles O44: LD from memory is the end of an instruction after the block load. -/
theorem loadRegistersFromI : Obligations.LoadRegistersFromI := fun x s =>
  ⟨decode_ldVxMem_word x, _, rfl, fun r hr => by rw [State.reg_ended, State.reg_loadRegs, if_pos hr],
    ⟨congrArg (· + 2#16) (s.loadRegs_pc x), rfl⟩, frame_loadRegs_ended s x _⟩

/-- Settles O45: neither the registers nor `PC` have a part in the addresses, so that the load reads where the store has
written. -/
theorem storedRegistersLoadBack : Obligations.StoredRegistersLoadBack := by
  refine fun x s hw => ⟨_, rfl, fun v pc => ⟨_, rfl, fun r hr => ?_⟩⟩
  rw [State.reg_ended, State.reg_loadRegs, if_pos hr]
  exact State.memRead_storeBytes_regsUpTo hw hr

/-! ### Fetch of a stored word (R51) -/

/-- The word at an effective address is that of the byte there and the byte at the next one. -/
theorem State.fetchWord_at_ea (s : State) {k k' : Nat} (hk : k' = k + 1) :
    ({ s with pc := (s.ea k).setWidth 16 } : State).fetchWord =
      wordOfBytes (s.memRead (s.ea k)) (s.memRead (s.ea k')) := by
  have hpc : ((s.ea k).setWidth 16).toNat = (s.ea k).toNat := BitVec.toNat_setWidth_of_le (by decide)
  have hnext : BitVec.ofNat 12 ((s.ea k).toNat + 1) = s.ea k' := by
    apply BitVec.eq_of_toNat_eq
    simp only [State.ea, BitVec.toNat_ofNat, hk]
    omega
  unfold State.fetchWord
  rw [hpc, hnext, BitVec.ofNat_toNat, BitVec.setWidth_eq]
  rfl

/-- Settles O46: the fetch reads the two bytes of the store. -/
theorem fetchSeesStoredInstruction : Obligations.FetchSeesStoredInstruction := by
  intro x k k' s hw hx hk _
  have hlow : k ≤ x := le_trans (Fin.le_def.mpr (by omega)) hx
  exact ⟨(s.storeBytes (s.regsUpTo x)).ended (s.pc + 2), rfl, (State.fetchWord_at_ea _ hk).trans
    (congrArg₂ wordOfBytes (State.memRead_storeBytes_regsUpTo hw hlow) (State.memRead_storeBytes_regsUpTo hw hx))⟩

/-! ### Glyphs (R46, R122) -/

/-- The rows of a glyph are inside the font, so that no address wraps. -/
theorem State.ea_setI_glyphAddress (s : State) (b : Byte) {r : Nat} (hr : r < 5) :
    ((s.setI (glyphAddress b)).ea r).toNat = 0x050 + (5 * (b.toNat % 16) + r) := by
  have hI : (s.setI (glyphAddress b)).i.toNat = 0x050 + (b.toNat % 16) * 5 := by
    rw [State.setI_i, glyphAddress_toNat, lowNibble_eq_mod]
  rw [State.ea, hI, BitVec.toNat_ofNat]
  omega

/-- Settles O50: the byte at the address of a glyph's row is the font's byte of that row. -/
theorem glyphAddressHoldsTheGlyph : Obligations.GlyphAddressHoldsTheGlyph := by
  intro x s hfont
  refine ⟨(s.setI (glyphAddress (s.reg x))).ended (s.pc + 2), rfl, fun r hr => ?_⟩
  have haddr := s.ea_setI_glyphAddress (s.reg x) hr
  have hread := hfont ((s.setI (glyphAddress (s.reg x))).ea r) (by omega) (by omega)
  rw [State.memRead_reset, resetByte_eq, if_pos (by omega), haddr, Nat.add_sub_cancel_left] at hread
  exact hread

end Sys2Proof.Machine
end

section
/-! DRW (43_display.md rule R137): its word, the sprite's bits, what the rasterizer does to the display and to the
flag, and the obligations on one draw and on two. -/

namespace Sys2Proof.Machine

open Sys2Proof.Claims

variable {s : State} {x0 y0 n X Y : Nat}

/-! ### The word (R65) -/

@[simp] theorem fieldN_encXYN (m n : BitVec 4) (x y : Reg) : fieldN (encXYN m x y n) = n.toFin := by
  rw [fieldN, minorOf_encXYN]

theorem decode_drwVxVyN_word (x y : Reg) (n : Fin 16) :
    decode (word (0xD000 + 0x100 * x.val + 0x10 * y.val + n.val)) = .instr (.drwVxVyN x y n) := by
  have hword : word (0xD000 + 0x100 * x.val + 0x10 * y.val + n.val) = encXYN 0xD x y (BitVec.ofFin n) := by
    rw [Nat.add_right_comm _ _ n.val, Nat.add_right_comm _ _ n.val]
    exact word_eq_encXYN 0xD (BitVec.ofFin n) x y
  rw [hword, decode_majorD (majorOf_encXYN 0xD (BitVec.ofFin n) x y), fieldX_encXYN, fieldY_encXYN, fieldN_encXYN]

/-! ### The bits of the sprite -/

/-- Column 0 is the most significant bit of a sprite's row. -/
theorem spriteBit_iff {b : Byte} {c : Nat} (hc : c < 8) : spriteBit b c = true ↔ b.toNat / 2 ^ (7 - c) % 2 = 1 := by
  rw [spriteBit, BitVec.getLsbD, Nat.testBit_eq_decide_div_mod_eq]
  simp
  omega

/-- A bit of a loaded row is a bit of the sprite. -/
theorem spriteBit_loadBytes_iff {r c : Nat} (hr : r < n) (hc : c < 8) :
    spriteBit ((s.loadBytes n).getD r 0#8) c = true ↔ spriteAt s x0 y0 n (x0 + c) (y0 + r) := by
  rw [s.getD_loadBytes hr, spriteBit_iff hc, spriteAt, Nat.add_sub_cancel_left, Nat.add_sub_cancel_left]
  have hin : x0 ≤ x0 + c ∧ x0 + c < x0 + 8 ∧ y0 ≤ y0 + r ∧ y0 + r < y0 + n := by omega
  tauto

/-- Inside its rows and columns the sprite is at a place that counts from its start. -/
theorem exists_of_spriteAt (h : spriteAt s x0 y0 n X Y) : ∃ c < 8, ∃ r < n, X = x0 + c ∧ Y = y0 + r := by
  obtain ⟨hx, hx', hy, hy', -⟩ := h
  exact ⟨X - x0, by omega, Y - y0, by omega, by omega, by omega⟩

/-! ### The rasterizer -/

/-- The bit that the rasterizer draws at `(X, Y)` is that of the sprite, clipped to the display. -/
theorem drawnBit_iff : (decide (X ≤ 63 ∧ Y ≤ 31 ∧ x0 ≤ X ∧ X - x0 < 8 ∧ y0 ≤ Y ∧ Y - y0 < (s.loadBytes n).length) &&
      spriteBit ((s.loadBytes n).getD (Y - y0) 0#8) (X - x0)) = true ↔
    onDisplay X Y ∧ spriteAt s x0 y0 n X Y := by
  rw [Bool.and_eq_true, decide_eq_true_iff, s.length_loadBytes, onDisplay]
  constructor
  · rintro ⟨⟨hX, hY, hx, hc, hy, hr⟩, hbit⟩
    have hat := (spriteBit_loadBytes_iff (x0 := x0) (y0 := y0) hr hc).mp hbit
    rw [Nat.add_sub_cancel' hx, Nat.add_sub_cancel' hy] at hat
    exact ⟨⟨hX, hY⟩, hat⟩
  · rintro ⟨⟨hX, hY⟩, hat⟩
    obtain ⟨c, hc, r, hr, rfl, rfl⟩ := exists_of_spriteAt hat
    rw [Nat.add_sub_cancel_left, Nat.add_sub_cancel_left, spriteBit_loadBytes_iff hr hc]
    exact ⟨⟨hX, hY, by omega, hc, by omega, hr⟩, hat⟩

/-- A pixel is lit after the draw where exactly one of the display and the clipped sprite was. -/
theorem State.pixelOf_rasterize_iff : pixelOf (s.rasterize x0 y0 n).fb X Y = true ↔
    (s.pixel X Y = true ↔ ¬ (onDisplay X Y ∧ spriteAt s x0 y0 n X Y)) := by
  rw [State.rasterize, pixelOf_plotRows, ← drawnBit_iff, Bool.xor_iff_ne, State.pixel]
  cases pixelOf s.fb X Y <;> simp

/-- The flag of a draw: a lit pixel of the display under the sprite. -/
theorem State.hit_rasterize_iff : (s.rasterize x0 y0 n).hit = true ↔
    ∃ X Y, onDisplay X Y ∧ s.pixel X Y = true ∧ spriteAt s x0 y0 n X Y := by
  rw [State.rasterize, hit_plotRows, s.length_loadBytes]
  constructor
  · rintro (hfalse | ⟨r, hr, c, hc, hX, hY, hbit, hlit⟩)
    · exact absurd hfalse Bool.false_ne_true
    · exact ⟨x0 + c, y0 + r, ⟨hX, hY⟩, hlit, (spriteBit_loadBytes_iff hr hc).mp hbit⟩
  · rintro ⟨X, Y, ⟨hX, hY⟩, hlit, hat⟩
    obtain ⟨c, hc, r, hr, rfl, rfl⟩ := exists_of_spriteAt hat
    exact .inr ⟨r, hr, c, hc, hX, hY, (spriteBit_loadBytes_iff hr hc).mpr hat, hlit⟩

/-! ### One draw -/

/-- The state that a draw at column `x0` and row `y0` leaves. -/
def State.drawn (s : State) (x0 y0 n : Nat) : State :=
  ((s.setFb (s.rasterize x0 y0 n).fb).setFlag (s.rasterize x0 y0 n).hit).ended (s.pc + 2#16)

theorem exec_drwVxVyN (x y : Reg) (n : Fin 16) (s : State) : exec (.drwVxVyN x y n) s =
    .next (s.drawn ((s.reg x).toNat % 64) ((s.reg y).toNat % 32) n.val) := rfl

theorem State.drawn_fb (s : State) (x0 y0 n : Nat) : (s.drawn x0 y0 n).fb = (s.rasterize x0 y0 n).fb := rfl

theorem State.pixel_drawn_iff : (s.drawn x0 y0 n).pixel X Y = true ↔
    (s.pixel X Y = true ↔ ¬ (onDisplay X Y ∧ spriteAt s x0 y0 n X Y)) := State.pixelOf_rasterize_iff

theorem State.reg_drawn_flag : (s.drawn x0 y0 n).reg 15 = flagByte (s.rasterize x0 y0 n).hit :=
  State.reg_setFlag_self ..

theorem flagByte_eq_one_iff {f : Bool} : flagByte f = 1 ↔ f = true := by cases f <;> decide

/-- VF after a draw is 1 at a collision, else 0. -/
theorem State.reg_drawn_eq_one_iff : (s.drawn x0 y0 n).reg 15 = 1 ↔
    ∃ X Y, onDisplay X Y ∧ s.pixel X Y = true ∧ spriteAt s x0 y0 n X Y := by
  rw [State.reg_drawn_flag, flagByte_eq_one_iff, State.hit_rasterize_iff]

theorem State.reg_drawn_eq_zero_of_not_one (h : (s.drawn x0 y0 n).reg 15 ≠ 1) : (s.drawn x0 y0 n).reg 15 = 0 := by
  rw [State.reg_drawn_flag] at h ⊢
  exact (flagByte_zero_or_one _).resolve_right h

theorem frame_drawn (s : State) (x0 y0 n : Nat) :
    ChangesOnly (only 15) (.fb :: .draw :: plain) noByte s (s.drawn x0 y0 n) :=
  ((frame_setFb (regs := only 15) s _).setFlag rfl _).ended _

/-- Settles O48: DRW is a draw at the place the old registers give, and it draws the sprite clipped to the display. -/
theorem drawXorsTheClippedSprite : Obligations.DrawXorsTheClippedSprite := by
  refine fun x y n s => ⟨decode_drwVxVyN_word x y n, _, exec_drwVxVyN x y n s, fun X Y hon => ?_,
    State.reg_drawn_eq_one_iff.mpr, fun hnone => ?_, rfl, ⟨rfl, rfl⟩, frame_drawn s _ _ _⟩
  · rw [State.pixel_drawn_iff, and_iff_right hon]
  · exact State.reg_drawn_eq_zero_of_not_one (hnone ∘ State.reg_drawn_eq_one_iff.mp)

/-! ### Two draws -/

/-- A framebuffer is its pixels. -/
theorem frameBuffer_ext {fb fb' : FrameBuffer} (h : ∀ X Y, pixelOf fb X Y = pixelOf fb' X Y) : fb = fb' := by
  refine Vector.ext fun Y hY => BitVec.eq_of_getLsbD_eq fun X _ => ?_
  have hpixel := h X Y
  rwa [pixelOf, pixelOf, dif_pos hY, dif_pos hY] at hpixel

/-- A draw changes neither RAM nor `I`, so that the sprite stays the same. -/
theorem spriteAt_drawn_iff {x1 y1 n1 : Nat} :
    spriteAt (s.drawn x1 y1 n1) x0 y0 n X Y ↔ spriteAt s x0 y0 n X Y := Iff.rfl

theorem State.drawn_drawn_fb (s : State) (x0 y0 n : Nat) : ((s.drawn x0 y0 n).drawn x0 y0 n).fb = s.fb := by
  refine frameBuffer_ext fun X Y => Bool.eq_iff_iff.mpr ?_
  rw [State.drawn_fb, State.pixelOf_rasterize_iff, State.pixel_drawn_iff, spriteAt_drawn_iff]
  change _ ↔ s.pixel X Y = true
  tauto

/-- Where the sprite is lit, the first draw has lit exactly the pixels that were off. -/
theorem State.reg_drawn_drawn_eq_one_iff : ((s.drawn x0 y0 n).drawn x0 y0 n).reg 15 = 1 ↔
    ∃ X Y, onDisplay X Y ∧ s.pixel X Y = false ∧ spriteAt s x0 y0 n X Y := by
  rw [State.reg_drawn_eq_one_iff]
  refine exists_congr fun X => exists_congr fun Y => and_congr_right fun hon => ?_
  rw [spriteAt_drawn_iff, State.pixel_drawn_iff, and_congr_left_iff]
  intro hat
  simp [hon, hat]

/-- Settles O49: with the same start the second DRW is the same draw. -/
theorem drawingTwiceRestoresTheScreen : Obligations.DrawingTwiceRestoresTheScreen := by
  intro x y n s
  refine ⟨_, exec_drwVxVyN x y n s, fun hx hy => ?_⟩
  rw [exec_drwVxVyN, hx, hy]
  exact ⟨_, rfl, s.drawn_drawn_fb _ _ _, State.reg_drawn_drawn_eq_one_iff⟩

end Sys2Proof.Machine
end

section
/-! What instructions read of the devices (10_state.md rules R19 to R23): the keys, the timers, the draw flag and the
framebuffer, and the obligations on them. -/

namespace Sys2Proof.Machine

variable {s : State} {i : Instr}

/-- The items of the state that stand for the devices. -/
structure Devices where
  keys : Vector Bool 16
  dt : Byte
  st : Byte
  draw : Bool
  fb : FrameBuffer

def State.devices (s : State) : Devices := ⟨s.keys, s.dt, s.st, s.draw, s.fb⟩

/-- The state with other devices. -/
def State.withDevices (s : State) (d : Devices) : State :=
  { s with keys := d.keys, dt := d.dt, st := d.st, draw := d.draw, fb := d.fb }

theorem State.drawRnd_withDevices (s : State) (d : Devices) :
    (s.withDevices d).drawRnd = s.drawRnd.withDevices d ∧ (s.withDevices d).rnd = s.rnd := by
  cases hfeed : s.rngFeed <;> simp [State.drawRnd, State.rnd, State.withDevices, hfeed]

theorem State.finishNext_withDevices (s : State) (d : Devices) :
    (s.withDevices d).finishNext = .next ((s.ended (s.pc + 2#16)).withDevices d) := rfl

/-! ### Instructions that do not use the devices -/

/-- The instruction leaves the devices as they are, and with the devices `d` it does the same to everything else. -/
def CarriesDevices (i : Instr) (s : State) (d : Devices) : Prop :=
  ∃ t, exec i s = .next t ∧ exec i (s.withDevices d) = .next (t.withDevices d) ∧ t.devices = s.devices

theorem carriesDevices_call (nnn : Addr) (s : State) (d : Devices) : CarriesDevices (.call nnn) s d := by
  by_cases hroom : s.sp.val < 16
  · have hpush (u : State) (h : u.sp.val < 16) := exec_call_of_push (nnn := nnn) (dif_pos h : u.push _ = some _)
    exact ⟨_, hpush s hroom, hpush (s.withDevices d) hroom, rfl⟩
  · have hfull : s.sp.val = 16 := by omega
    exact ⟨_, exec_call_of_full hfull, exec_call_of_full (s := s.withDevices d) hfull, rfl⟩

theorem carriesDevices_ret (s : State) (d : Devices) : CarriesDevices .ret s d := by
  by_cases hheld : 0 < s.sp.val
  · have hpop (u : State) (h : 0 < u.sp.val) := exec_ret_of_pop (dif_pos h : u.pop = some _)
    exact ⟨_, hpop s hheld, hpop (s.withDevices d) hheld, rfl⟩
  · have hempty : s.sp.val = 0 := by omega
    exact ⟨_, exec_ret_of_empty hempty, exec_ret_of_empty (s := s.withDevices d) hempty, rfl⟩

theorem carriesDevices_rndVxKk (x : Reg) (kk : Byte) (s : State) (d : Devices) :
    CarriesDevices (.rndVxKk x kk) s d := by
  obtain ⟨hdraw, hrnd⟩ := s.drawRnd_withDevices d
  refine ⟨_, rfl, ?_, by simp [State.devices]⟩
  change execRndVxKk x kk (s.withDevices d) = _
  rw [execRndVxKk, hdraw, hrnd]
  exact (s.drawRnd.setReg x _).finishNext_withDevices d

theorem carriesDevices_ldVxMem (x : Reg) (s : State) (d : Devices) : CarriesDevices (.ldVxMem x) s d := by
  have hload : (s.withDevices d).loadRegs x = (s.loadRegs x).withDevices d := rfl
  refine ⟨_, rfl, ?_, by simp [State.devices]⟩
  change execLdVxMem x (s.withDevices d) = _
  rw [execLdVxMem, hload]
  exact (s.loadRegs x).finishNext_withDevices d

/-- R148: Fx0A reads the keys and no other device. -/
theorem carriesDevices_ldVxK (x : Reg) {d : Devices} (hkeys : d.keys = s.keys) : CarriesDevices (.ldVxK x) s d := by
  have hlowest : (s.withDevices d).lowestKey = s.lowestKey := by
    simp only [State.lowestKey, State.keyDown, State.withDevices, hkeys]
  cases hkey : s.lowestKey with
  | none => exact ⟨_, exec_ldVxK_of_no_key hkey, exec_ldVxK_of_no_key (hlowest.trans hkey), rfl⟩
  | some k => exact ⟨_, exec_ldVxK_of_lowestKey hkey, exec_ldVxK_of_lowestKey (hlowest.trans hkey), rfl⟩

/-- The instructions that read or write a device. -/
def usesDevices : Instr → Prop
  | .cls | .drwVxVyN _ _ _ | .skpVx _ | .sknpVx _ | .ldVxK _ | .ldVxDt _ | .ldDtVx _ | .ldStVx _ => True
  | _ => False

theorem carriesDevices_of_not_usesDevices (h : ¬ usesDevices i) (s : State) (d : Devices) : CarriesDevices i s d := by
  cases i
  case cls | drwVxVyN | skpVx | sknpVx | ldVxK | ldVxDt | ldDtVx | ldStVx => exact absurd trivial h
  case call nnn => exact carriesDevices_call nnn s d
  case ret => exact carriesDevices_ret s d
  case rndVxKk x kk => exact carriesDevices_rndVxKk x kk s d
  case ldVxMem x => exact carriesDevices_ldVxMem x s d
  all_goals exact ⟨_, rfl, rfl, rfl⟩

/-- Where the devices `d` differ from those of `s` in what `restore` puts back, the two executions agree after it. -/
theorem CarriesDevices.restored {d : Devices} (h : CarriesDevices i s d) {restore : State → State → State}
    (hrestore : ∀ t : State, t.devices = s.devices → restore t (t.withDevices d) = t) :
    ∃ t u, exec i s = .next t ∧ exec i (s.withDevices d) = .next u ∧ restore t u = t := by
  obtain ⟨t, ht, hu, hkept⟩ := h
  exact ⟨t, _, ht, hu, hrestore t hkept⟩

/-! ### What is not read -/

/-- R22, R23: nothing reads `ST` or `DRAW`; CLS, DRW and Fx18 write them, without reading them. -/
theorem exec_ignores_st_draw (i : Instr) (s : State) (b : Byte) (d : Bool) : ∃ t u, exec i s = .next t ∧
    exec i { s with st := b, draw := d } = .next u ∧ { u with st := t.st, draw := t.draw } = t := by
  have restored (h : CarriesDevices i s { s.devices with st := b, draw := d }) :=
    h.restored (restore := fun t u => { u with st := t.st, draw := t.draw }) fun t ht => by rw [← ht]; rfl
  cases i
  case cls | drwVxVyN | skpVx | sknpVx | ldVxDt | ldDtVx | ldStVx => exact ⟨_, _, rfl, rfl, rfl⟩
  case ldVxK x => exact restored (carriesDevices_ldVxK x rfl)
  all_goals exact restored (carriesDevices_of_not_usesDevices id s _)

/-- Settles O58: the instructions that use the devices and those that carry them along all pass over these two. -/
theorem noInstructionReadsSoundTimerOrDrawFlag : Obligations.NoInstructionReadsSoundTimerOrDrawFlag :=
  exec_ignores_st_draw

/-- R20: the keys are read by Ex9E, ExA1 and Fx0A alone. -/
theorem exec_ignores_keys (s : State) (keys : Vector Bool 16)
    (h : ∀ x, i ≠ .skpVx x ∧ i ≠ .sknpVx x ∧ i ≠ .ldVxK x) : ∃ t u, exec i s = .next t ∧
    exec i { s with keys := keys } = .next u ∧ { u with keys := t.keys } = t := by
  have restored (h : CarriesDevices i s { s.devices with keys := keys }) :=
    h.restored (restore := fun t u => { u with keys := t.keys }) fun t ht => by rw [← ht]; rfl
  cases i
  case skpVx x => exact absurd rfl (h x).1
  case sknpVx x => exact absurd rfl (h x).2.1
  case ldVxK x => exact absurd rfl (h x).2.2
  case cls | drwVxVyN | ldVxDt | ldDtVx | ldStVx => exact ⟨_, _, rfl, rfl, rfl⟩
  all_goals exact restored (carriesDevices_of_not_usesDevices id s _)

/-- R21: the delay timer is read by Fx07 alone; Fx15 writes it, without reading it. -/
theorem exec_ignores_dt (s : State) (dt : Byte) (h : ∀ x, i ≠ .ldVxDt x) : ∃ t u, exec i s = .next t ∧
    exec i { s with dt := dt } = .next u ∧ { u with dt := t.dt } = t := by
  have restored (h : CarriesDevices i s { s.devices with dt := dt }) :=
    h.restored (restore := fun t u => { u with dt := t.dt }) fun t ht => by rw [← ht]; rfl
  cases i
  case ldVxDt x => exact absurd rfl (h x)
  case cls | drwVxVyN | skpVx | sknpVx | ldDtVx | ldStVx => exact ⟨_, _, rfl, rfl, rfl⟩
  case ldVxK x => exact restored (carriesDevices_ldVxK x rfl)
  all_goals exact restored (carriesDevices_of_not_usesDevices id s _)

/-- R19: the framebuffer is read by DRW alone; CLS writes it, without reading it. -/
theorem exec_ignores_fb (s : State) (fb : FrameBuffer) (h : ∀ x y n, i ≠ .drwVxVyN x y n) : ∃ t u,
    exec i s = .next t ∧ exec i { s with fb := fb } = .next u ∧ { u with fb := t.fb } = t := by
  have restored (h : CarriesDevices i s { s.devices with fb := fb }) :=
    h.restored (restore := fun t u => { u with fb := t.fb }) fun t ht => by rw [← ht]; rfl
  cases i
  case drwVxVyN x y n => exact absurd rfl (h x y n)
  case cls | skpVx | sknpVx | ldVxDt | ldDtVx | ldStVx => exact ⟨_, _, rfl, rfl, rfl⟩
  case ldVxK x => exact restored (carriesDevices_ldVxK x rfl)
  all_goals exact restored (carriesDevices_of_not_usesDevices id s _)

/-- Settles O59, device by device. -/
theorem instructionsReadOnlyTheirDevices : Obligations.InstructionsReadOnlyTheirDevices := fun _ s keys dt fb =>
  ⟨exec_ignores_keys s keys, exec_ignores_dt s dt, exec_ignores_fb s fb⟩

end Sys2Proof.Machine
end
